-- ==== Sys2Proof/Word.lean ====
section
/-! DEFINITION. The word types of the DLPF block (00_scope R16, R17; 30_encoding R90). -/

namespace Sys2Proof

/-- One 32-bit element: every register, table entry and data word (R16, R70). -/
abbrev Word := BitVec 32

/-- A binary32 bit pattern; every pattern is legal (R17). -/
abbrev F32 := BitVec 32

/-- A command word (R90). -/
abbrev Cmd := BitVec 64

/-- The 8-bit `v` field, or the `a` field of `COPY`: the number of a voice context (R91). -/
abbrev VoiceNo := BitVec 8

end Sys2Proof
end

