-- ==== Sys2Proof/Config.lean ====
section
/-! DEFINITION. The implementation parameters of 00_scope section 4 (R11 to R14). -/

namespace Sys2Proof

/-- Which sine generator the block is built with (R13). -/
inductive SinRom where
  /-- The spec's default: the correctly rounded sine, quadrant points exact. -/
  | rounded
  /-- Any other total function, named by a number and left uninterpreted. -/
  | other (id : Nat)
deriving DecidableEq, Repr

/-- The generator `SinRom.other id` names: a function of the table length and the index of which nothing is
assumed (R13: "A model that leaves `SINROM` uninterpreted must assume of it only what it needs"). -/
opaque Config.otherSinRom : (id tableLen index : Nat) → F32

/-- The parameters other than `NV`, which is the number of voice contexts the state holds. R30 says they are
no state of the block; the model's State carries them unchanged. -/
structure Params where
  /-- `LOG2_LMAX` (R12). -/
  log2Lmax : Nat
  /-- `SINROM` (R13). -/
  sinRom : SinRom
  /-- `EXPK` (R14). -/
  expk : F32
deriving DecidableEq, Repr

/-- The defaults of R12 to R14: `LMAX = 65536`, the correctly rounded sine, `EXPK = 5.0`. -/
def Params.default : Params :=
  { log2Lmax := 16, sinRom := .rounded, expk := 0x40A00000#32 }

/-- The default number of voice contexts (R11). -/
def Params.defaultNV : Nat := 4

end Sys2Proof
end

