-- ==== Sys2Proof/Syntax.lean ====
section
/-! DEFINITION. The 32 commands of spec/opcode_table.json and the names their operands range over
(30_encoding R95; 10_state for the register names; 60_exceptions R251 for the status codes). -/

namespace Sys2Proof

/-- The status of a response: `ok`, or the cause of a rejection (R251). -/
inductive Status where
  | ok
  | illegalOp
  | rsvdField
  | badVoice
  | badSelector
  | badValue
  | cfgRate
  | cfgTableLen
  | cfgSrate
  | tblNotReady
  | tblLocked
  | notInit
  | tblIndex
deriving DecidableEq, Repr

/-- The ten words of the definition record, which are also the ten definition registers of a voice
(10_state R44, R46 to R55). -/
inductive DefWord where
  | startLvl
  | atkRt
  | atkLvl
  | decRt
  | susLvl
  | relRt
  | relLvl
  | curve
  | gain
  | ftype
deriving DecidableEq, Repr

/-- The five coefficient registers (10_state R56). -/
inductive Tap where
  | in0
  | in1
  | in2
  | out1
  | out2
deriving DecidableEq, Repr

/-- The 27 voice registers `GETP` reads (10_state R46 to R64). -/
inductive VReg where
  | defn (k : DefWord)
  | tap (t : Tap)
  | x1
  | x2
  | y1
  | y2
  | lastIdx
  | seg
  | lvl
  | pos
  | cnt
  | tgt
  | crv
  | coef
deriving DecidableEq, Repr

/-- The ten global selectors `GETG` reads (10_state R35 to R43). -/
inductive GReg where
  | status
  | tlen
  | srate
  | frqti
  | cosoffs
  | errCause
  | errCmdLo
  | errCmdHi
  | nvoices
  | lmaxr
deriving DecidableEq, Repr

/-- A decoded command, one constructor per row of the opcode table (R95). -/
inductive Instr where
  -- waveform table and globals
  | tinit (len : Word)
  | tdown
  | setsr (rate : F32)
  | tlook (index : Word)
  | getg (g : GReg)
  -- voice lifecycle
  | finit (v : VoiceNo)
  | freset (v : VoiceNo) (phase : Word)
  | release (v : VoiceNo)
  | copy (vd vs : VoiceNo)
  -- per sample
  | sample (v : VoiceNo) (x : F32)
  | bqsamp (v : VoiceNo) (x : F32)
  | egen (v : VoiceNo)
  -- voice register writes
  | setstart (v : VoiceNo) (w : Word)
  | setatkrt (v : VoiceNo) (w : Word)
  | setatklvl (v : VoiceNo) (w : Word)
  | setdecrt (v : VoiceNo) (w : Word)
  | setsuslvl (v : VoiceNo) (w : Word)
  | setrelrt (v : VoiceNo) (w : Word)
  | setrellvl (v : VoiceNo) (w : Word)
  | settype (v : VoiceNo) (w : Word)
  | setgain (v : VoiceNo) (w : Word)
  | setftype (v : VoiceNo) (w : Word)
  | setin0 (v : VoiceNo) (w : Word)
  | setin1 (v : VoiceNo) (w : Word)
  | setin2 (v : VoiceNo) (w : Word)
  | setout1 (v : VoiceNo) (w : Word)
  | setout2 (v : VoiceNo) (w : Word)
  -- register and record access
  | getp (v : VoiceNo) (p : VReg)
  | defwr (k : DefWord) (w : Word)
  | defrd (k : DefWord)
  | getenvdef (v : VoiceNo)
  | setenvdef (v : VoiceNo)
deriving DecidableEq, Repr

end Sys2Proof
end

