-- ==== Sys2Proof/WellFormed.lean ====
section
/-! DEFINITION. Which commands are well formed on a block with `nv` voice contexts: every voice number they
carry names a context (30_encoding R97 step 3). Selectors and register numbers are well formed by their types. -/

namespace Sys2Proof

/-- The voice numbers a command carries, `COPY`'s source included (R91). -/
def Instr.voices : Instr → List VoiceNo
  | .tinit _ => []
  | .tdown => []
  | .setsr _ => []
  | .tlook _ => []
  | .getg _ => []
  | .finit v => [v]
  | .freset v _ => [v]
  | .release v => [v]
  | .copy vd vs => [vd, vs]
  | .sample v _ => [v]
  | .bqsamp v _ => [v]
  | .egen v => [v]
  | .setstart v _ => [v]
  | .setatkrt v _ => [v]
  | .setatklvl v _ => [v]
  | .setdecrt v _ => [v]
  | .setsuslvl v _ => [v]
  | .setrelrt v _ => [v]
  | .setrellvl v _ => [v]
  | .settype v _ => [v]
  | .setgain v _ => [v]
  | .setftype v _ => [v]
  | .setin0 v _ => [v]
  | .setin1 v _ => [v]
  | .setin2 v _ => [v]
  | .setout1 v _ => [v]
  | .setout2 v _ => [v]
  | .getp v _ => [v]
  | .defwr _ _ => []
  | .defrd _ => []
  | .getenvdef v => [v]
  | .setenvdef v => [v]

/-- Every voice number of the command is below `nv` (R97 step 3). -/
def Instr.wf (nv : Nat) (i : Instr) : Bool :=
  i.voices.all fun v => decide (v.toNat < nv)

end Sys2Proof
end

