-- ==== Sys2Proof/Decode.lean ====
section
/-! DEFINITION. Command encoding (30_encoding): the fields of a word, the decoder in the check order of R97, the
encoder, the opcode table's match, mask and must-be-zero words (R96), and the byte layout of R74. -/

namespace Sys2Proof

/-! ## Fields (R91) -/

def opField (w : Cmd) : BitVec 8 := w.extractLsb' 56 8
def vField (w : Cmd) : VoiceNo := w.extractLsb' 48 8
def aField (w : Cmd) : BitVec 8 := w.extractLsb' 40 8
def zField (w : Cmd) : BitVec 8 := w.extractLsb' 32 8
def immField (w : Cmd) : Word := w.extractLsb' 0 32

/-- The word with the given fields and `z = 0`. -/
def packCmd (op : BitVec 8) (v : VoiceNo) (a : BitVec 8) (imm : Word) : Cmd :=
  op ++ v ++ a ++ 0#8 ++ imm

/-! ## Codes -/

/-- The status codes (60_exceptions R251). -/
def Status.code : Status → BitVec 8
  | .ok => 0x00
  | .illegalOp => 0x01
  | .rsvdField => 0x02
  | .badVoice => 0x03
  | .badSelector => 0x04
  | .badValue => 0x05
  | .cfgRate => 0x06
  | .cfgTableLen => 0x07
  | .cfgSrate => 0x08
  | .tblNotReady => 0x09
  | .tblLocked => 0x0A
  | .notInit => 0x0B
  | .tblIndex => 0x0C

/-- The word number of a definition word, which is its voice selector too (10_state R44, R46 to R55). -/
def DefWord.sel : DefWord → BitVec 8
  | .startLvl => 0x00
  | .atkRt => 0x01
  | .atkLvl => 0x02
  | .decRt => 0x03
  | .susLvl => 0x04
  | .relRt => 0x05
  | .relLvl => 0x06
  | .curve => 0x07
  | .gain => 0x08
  | .ftype => 0x09

/-- The definition word a word number names; none for `k > 9` (44_params R230, R231). -/
def DefWord.ofSel (a : BitVec 8) : Option DefWord :=
  match a.toNat with
  | 0x00 => some .startLvl
  | 0x01 => some .atkRt
  | 0x02 => some .atkLvl
  | 0x03 => some .decRt
  | 0x04 => some .susLvl
  | 0x05 => some .relRt
  | 0x06 => some .relLvl
  | 0x07 => some .curve
  | 0x08 => some .gain
  | 0x09 => some .ftype
  | _ => none

/-- The selectors of the coefficient registers (10_state R56). -/
def Tap.sel : Tap → BitVec 8
  | .in0 => 0x10
  | .in1 => 0x11
  | .in2 => 0x12
  | .out1 => 0x13
  | .out2 => 0x14

def Tap.ofSel (a : BitVec 8) : Option Tap :=
  match a.toNat with
  | 0x10 => some .in0
  | 0x11 => some .in1
  | 0x12 => some .in2
  | 0x13 => some .out1
  | 0x14 => some .out2
  | _ => none

/-- The voice register selectors (10_state R46 to R64). -/
def VReg.sel : VReg → BitVec 8
  | .defn k => k.sel
  | .tap t => t.sel
  | .x1 => 0x18
  | .x2 => 0x19
  | .y1 => 0x1A
  | .y2 => 0x1B
  | .lastIdx => 0x1C
  | .seg => 0x20
  | .lvl => 0x21
  | .pos => 0x22
  | .cnt => 0x23
  | .tgt => 0x24
  | .crv => 0x25
  | .coef => 0x26

/-- The voice register a selector names; none for the undefined selectors of 10_state R65. -/
def VReg.ofSel (a : BitVec 8) : Option VReg :=
  match a.toNat with
  | 0x18 => some .x1
  | 0x19 => some .x2
  | 0x1A => some .y1
  | 0x1B => some .y2
  | 0x1C => some .lastIdx
  | 0x20 => some .seg
  | 0x21 => some .lvl
  | 0x22 => some .pos
  | 0x23 => some .cnt
  | 0x24 => some .tgt
  | 0x25 => some .crv
  | 0x26 => some .coef
  | _ => ((DefWord.ofSel a).map VReg.defn).or ((Tap.ofSel a).map VReg.tap)

/-- The global selectors (10_state R35 to R43). -/
def GReg.sel : GReg → BitVec 8
  | .status => 0x00
  | .tlen => 0x01
  | .srate => 0x02
  | .frqti => 0x03
  | .cosoffs => 0x04
  | .errCause => 0x05
  | .errCmdLo => 0x06
  | .errCmdHi => 0x07
  | .nvoices => 0x08
  | .lmaxr => 0x09

/-- The global register a selector names; none for `0x0A .. 0xFF` (10_state R43). -/
def GReg.ofSel (a : BitVec 8) : Option GReg :=
  match a.toNat with
  | 0x00 => some .status
  | 0x01 => some .tlen
  | 0x02 => some .srate
  | 0x03 => some .frqti
  | 0x04 => some .cosoffs
  | 0x05 => some .errCause
  | 0x06 => some .errCmdLo
  | 0x07 => some .errCmdHi
  | 0x08 => some .nvoices
  | 0x09 => some .lmaxr
  | _ => none

/-! ## Opcodes and formats (R92, R95) -/

/-- The 18 opcode values; `set` is shared by the fifteen `SET...` commands. -/
inductive Opcode where
  | tinit
  | tdown
  | setsr
  | tlook
  | getg
  | finit
  | freset
  | release
  | copy
  | sample
  | bqsamp
  | egen
  | set
  | getp
  | defwr
  | defrd
  | getenvdef
  | setenvdef
deriving DecidableEq, Repr

def Opcode.byte : Opcode → BitVec 8
  | .tinit => 0x01
  | .tdown => 0x02
  | .setsr => 0x03
  | .tlook => 0x04
  | .getg => 0x05
  | .finit => 0x10
  | .freset => 0x11
  | .release => 0x12
  | .copy => 0x13
  | .sample => 0x20
  | .bqsamp => 0x21
  | .egen => 0x22
  | .set => 0x30
  | .getp => 0x31
  | .defwr => 0x38
  | .defrd => 0x39
  | .getenvdef => 0x3A
  | .setenvdef => 0x3B

def Opcode.ofByte (b : BitVec 8) : Option Opcode :=
  match b.toNat with
  | 0x01 => some .tinit
  | 0x02 => some .tdown
  | 0x03 => some .setsr
  | 0x04 => some .tlook
  | 0x05 => some .getg
  | 0x10 => some .finit
  | 0x11 => some .freset
  | 0x12 => some .release
  | 0x13 => some .copy
  | 0x20 => some .sample
  | 0x21 => some .bqsamp
  | 0x22 => some .egen
  | 0x30 => some .set
  | 0x31 => some .getp
  | 0x38 => some .defwr
  | 0x39 => some .defrd
  | 0x3A => some .getenvdef
  | 0x3B => some .setenvdef
  | _ => none

/-- The formats of R92; `z` is used by none. -/
inductive Format where
  | N
  | I
  | A
  | AI
  | V
  | VI
  | VA
  | VAI
deriving DecidableEq, Repr

def Format.usesV : Format → Bool
  | .V | .VI | .VA | .VAI => true
  | .N | .I | .A | .AI => false

def Format.usesA : Format → Bool
  | .A | .AI | .VA | .VAI => true
  | .N | .I | .V | .VI => false

def Format.usesImm : Format → Bool
  | .I | .AI | .VI | .VAI => true
  | .N | .A | .V | .VA => false

def Opcode.format : Opcode → Format
  | .tinit => .I
  | .tdown => .N
  | .setsr => .I
  | .tlook => .I
  | .getg => .A
  | .finit => .V
  | .freset => .VI
  | .release => .V
  | .copy => .VA
  | .sample => .VI
  | .bqsamp => .VI
  | .egen => .V
  | .set => .VAI
  | .getp => .VA
  | .defwr => .AI
  | .defrd => .A
  | .getenvdef => .V
  | .setenvdef => .V

/-! ## The decoder (R97) -/

/-- Step 2: `z`, or a field the format does not use, is not zero (R99). -/
def reservedViolated (f : Format) (w : Cmd) : Bool :=
  zField w != 0
  || (!f.usesV && vField w != 0)
  || (!f.usesA && aField w != 0)
  || (!f.usesImm && immField w != 0)

/-- Step 3: a voice number the command uses is not below `nv`; for `COPY` the `a` field is one too. -/
def voiceViolated (nv : Nat) (o : Opcode) (w : Cmd) : Bool :=
  (o.format.usesV && decide (nv ≤ (vField w).toNat))
  || (decide (o = .copy) && decide (nv ≤ (aField w).toNat))

/-- The `SET...` command of a writable definition selector (R95). -/
def setDefInstr (v : VoiceNo) (w : Word) : DefWord → Instr
  | .startLvl => .setstart v w
  | .atkRt => .setatkrt v w
  | .atkLvl => .setatklvl v w
  | .decRt => .setdecrt v w
  | .susLvl => .setsuslvl v w
  | .relRt => .setrelrt v w
  | .relLvl => .setrellvl v w
  | .curve => .settype v w
  | .gain => .setgain v w
  | .ftype => .setftype v w

/-- The `SET...` command of a coefficient selector (R95). -/
def setTapInstr (v : VoiceNo) (w : Word) : Tap → Instr
  | .in0 => .setin0 v w
  | .in1 => .setin1 v w
  | .in2 => .setin2 v w
  | .out1 => .setout1 v w
  | .out2 => .setout2 v w

/-- Step 4 and the selection of the command: none when the selector in `a` is not defined for it (R97, R104). -/
def selectInstr (o : Opcode) (v : VoiceNo) (a : BitVec 8) (imm : Word) : Option Instr :=
  match o with
  | .tinit => some (.tinit imm)
  | .tdown => some .tdown
  | .setsr => some (.setsr imm)
  | .tlook => some (.tlook imm)
  | .getg => (GReg.ofSel a).map .getg
  | .finit => some (.finit v)
  | .freset => some (.freset v imm)
  | .release => some (.release v)
  | .copy => some (.copy v a)
  | .sample => some (.sample v imm)
  | .bqsamp => some (.bqsamp v imm)
  | .egen => some (.egen v)
  | .set => ((DefWord.ofSel a).map (setDefInstr v imm)).or ((Tap.ofSel a).map (setTapInstr v imm))
  | .getp => (VReg.ofSel a).map (.getp v)
  | .defwr => (DefWord.ofSel a).map (.defwr · imm)
  | .defrd => (DefWord.ofSel a).map .defrd
  | .getenvdef => some (.getenvdef v)
  | .setenvdef => some (.setenvdef v)

/-- Decoding of a word on a block with `nv` voice contexts: the command, or the cause of the first failing
check of R97 steps 1 to 4. Total on all words (R102). -/
def decode (nv : Nat) (w : Cmd) : Except Status Instr :=
  match Opcode.ofByte (opField w) with
  | none => .error .illegalOp
  | some o =>
    if reservedViolated o.format w then .error .rsvdField
    else if voiceViolated nv o w then .error .badVoice
    else match selectInstr o (vField w) (aField w) (immField w) with
      | none => .error .badSelector
      | some i => .ok i

/-! ## The encoder (R91, R95) -/

/-- The word of a `SET...` command with selector `a`. -/
def packSet (v : VoiceNo) (a : BitVec 8) (w : Word) : Cmd :=
  packCmd Opcode.set.byte v a w

/-- The command word of a command. -/
def encode : Instr → Cmd
  | .tinit n => packCmd Opcode.tinit.byte 0 0 n
  | .tdown => packCmd Opcode.tdown.byte 0 0 0
  | .setsr x => packCmd Opcode.setsr.byte 0 0 x
  | .tlook n => packCmd Opcode.tlook.byte 0 0 n
  | .getg g => packCmd Opcode.getg.byte 0 g.sel 0
  | .finit v => packCmd Opcode.finit.byte v 0 0
  | .freset v ph => packCmd Opcode.freset.byte v 0 ph
  | .release v => packCmd Opcode.release.byte v 0 0
  | .copy vd vs => packCmd Opcode.copy.byte vd vs 0
  | .sample v x => packCmd Opcode.sample.byte v 0 x
  | .bqsamp v x => packCmd Opcode.bqsamp.byte v 0 x
  | .egen v => packCmd Opcode.egen.byte v 0 0
  | .setstart v w => packSet v DefWord.startLvl.sel w
  | .setatkrt v w => packSet v DefWord.atkRt.sel w
  | .setatklvl v w => packSet v DefWord.atkLvl.sel w
  | .setdecrt v w => packSet v DefWord.decRt.sel w
  | .setsuslvl v w => packSet v DefWord.susLvl.sel w
  | .setrelrt v w => packSet v DefWord.relRt.sel w
  | .setrellvl v w => packSet v DefWord.relLvl.sel w
  | .settype v w => packSet v DefWord.curve.sel w
  | .setgain v w => packSet v DefWord.gain.sel w
  | .setftype v w => packSet v DefWord.ftype.sel w
  | .setin0 v w => packSet v Tap.in0.sel w
  | .setin1 v w => packSet v Tap.in1.sel w
  | .setin2 v w => packSet v Tap.in2.sel w
  | .setout1 v w => packSet v Tap.out1.sel w
  | .setout2 v w => packSet v Tap.out2.sel w
  | .getp v p => packCmd Opcode.getp.byte v p.sel 0
  | .defwr k w => packCmd Opcode.defwr.byte 0 k.sel w
  | .defrd k => packCmd Opcode.defrd.byte 0 k.sel 0
  | .getenvdef v => packCmd Opcode.getenvdef.byte v 0 0
  | .setenvdef v => packCmd Opcode.setenvdef.byte v 0 0

/-! ## The opcode table (R96) -/

/-- A row of the opcode table: a word belongs to it when `word &&& mask = pattern`, and the bits of `mbz` must
then be zero. -/
structure Row where
  pattern : Cmd
  mask : Cmd
  mbz : Cmd
deriving DecidableEq, Repr

/-- The row of a command that is selected by `op` alone. -/
def opRow (o : Opcode) (mbz : Cmd) : Row :=
  { pattern := packCmd o.byte 0 0 0, mask := 0xFF00000000000000, mbz := mbz }

/-- The row of a `SET...` command, selected by `op` and `a`. -/
def setRow (a : BitVec 8) : Row :=
  { pattern := packCmd Opcode.set.byte 0 a 0, mask := 0xFF00FF0000000000, mbz := 0x000000FF00000000 }

/-- The table's row of each command, in the table's order. -/
def Instr.row : Instr → Row
  | .tinit _ => opRow .tinit 0x00FFFFFF00000000
  | .tdown => opRow .tdown 0x00FFFFFFFFFFFFFF
  | .setsr _ => opRow .setsr 0x00FFFFFF00000000
  | .tlook _ => opRow .tlook 0x00FFFFFF00000000
  | .getg _ => opRow .getg 0x00FF00FFFFFFFFFF
  | .finit _ => opRow .finit 0x0000FFFFFFFFFFFF
  | .freset _ _ => opRow .freset 0x0000FFFF00000000
  | .release _ => opRow .release 0x0000FFFFFFFFFFFF
  | .copy _ _ => opRow .copy 0x000000FFFFFFFFFF
  | .sample _ _ => opRow .sample 0x0000FFFF00000000
  | .bqsamp _ _ => opRow .bqsamp 0x0000FFFF00000000
  | .egen _ => opRow .egen 0x0000FFFFFFFFFFFF
  | .setstart _ _ => setRow 0x00
  | .setatkrt _ _ => setRow 0x01
  | .setatklvl _ _ => setRow 0x02
  | .setdecrt _ _ => setRow 0x03
  | .setsuslvl _ _ => setRow 0x04
  | .setrelrt _ _ => setRow 0x05
  | .setrellvl _ _ => setRow 0x06
  | .settype _ _ => setRow 0x07
  | .setgain _ _ => setRow 0x08
  | .setftype _ _ => setRow 0x09
  | .setin0 _ _ => setRow 0x10
  | .setin1 _ _ => setRow 0x11
  | .setin2 _ _ => setRow 0x12
  | .setout1 _ _ => setRow 0x13
  | .setout2 _ _ => setRow 0x14
  | .getp _ _ => opRow .getp 0x000000FFFFFFFFFF
  | .defwr _ _ => opRow .defwr 0x00FF00FF00000000
  | .defrd _ => opRow .defrd 0x00FF00FFFFFFFFFF
  | .getenvdef _ => opRow .getenvdef 0x0000FFFFFFFFFFFF
  | .setenvdef _ => opRow .setenvdef 0x0000FFFFFFFFFFFF

/-! ## Bytes (R74) -/

/-- A command word laid out as bytes, byte 0 (bits 7:0) first. -/
def bytesOfCmd (w : Cmd) : List (BitVec 8) :=
  [w.extractLsb' 0 8, w.extractLsb' 8 8, w.extractLsb' 16 8, w.extractLsb' 24 8,
   w.extractLsb' 32 8, w.extractLsb' 40 8, w.extractLsb' 48 8, w.extractLsb' 56 8]

/-- The command word of a layout of exactly eight bytes. -/
def cmdOfBytes : List (BitVec 8) → Option Cmd
  | [b0, b1, b2, b3, b4, b5, b6, b7] => some (b7 ++ b6 ++ b5 ++ b4 ++ b3 ++ b2 ++ b1 ++ b0)
  | _ => none

/-- The command word whose low `nbits` bits are those of `w` and whose other bits are zero. -/
def cmdOfBits (nbits w : Nat) : Cmd :=
  BitVec.ofNat 64 (w % 2 ^ nbits)

/-- The command the decoder reads, on a block with the default number of voices, from the bytes of the word
with the given bits; none where it rejects. -/
def decodeTableWord (nbits w : Nat) : Option Instr :=
  match cmdOfBytes (bytesOfCmd (cmdOfBits nbits w)) with
  | none => none
  | some c =>
    match decode Params.defaultNV c with
    | .ok i => some i
    | .error _ => none

end Sys2Proof
end

