-- ==== Sys2Proof/Machine/State.lean ====
section
/-! DEFINITION. The state of the DLPF block (10_state R30 to R68), the host's side of the command port, the
reasons a step can stop, and the state after hardware reset (R68, R280). -/

namespace Sys2Proof.Machine

/-- The curve type of a ramp segment (10_state R53). -/
inductive Curve where
  | lin
  | exp
deriving DecidableEq, Repr

/-- The filter type; low-pass is the only one (10_state R55). -/
inductive FilterType where
  | lp
deriving DecidableEq, Repr

/-- The envelope's state (10_state R59, 41_envelope R140). -/
inductive Seg where
  | idle
  | attack
  | decay
  | sustain
  | release
  | done
deriving DecidableEq, Repr

/-- The filter coefficient set (10_state R56). -/
structure Taps where
  in0 : F32
  in1 : F32
  in2 : F32
  out1 : F32
  out2 : F32
deriving DecidableEq, Repr

/-- A voice context: the 27 registers of 10_state section 5, the five coefficients held together. -/
structure Voice where
  -- definition (R46 to R55)
  startLvl : F32
  atkRt : Word
  atkLvl : F32
  decRt : Word
  susLvl : F32
  relRt : Word
  relLvl : F32
  curve : Curve
  gain : F32
  ftype : FilterType
  -- biquad core and index cache (R56 to R58)
  taps : Taps
  x1 : F32
  x2 : F32
  y1 : F32
  y2 : F32
  lastIdx : Word
  -- envelope progress (R59 to R64)
  seg : Seg
  lvl : F32
  pos : Word
  cnt : Word
  tgt : F32
  crv : Curve
  coef : F32
deriving DecidableEq, Repr

/-- The definition record `DEF[0..9]`, raw words (10_state R44). -/
structure DefRecord where
  startLvl : Word
  atkRt : Word
  atkLvl : Word
  decRt : Word
  susLvl : Word
  relRt : Word
  relLvl : Word
  curve : Word
  gain : Word
  ftype : Word
deriving DecidableEq, Repr

/-- The response to one command (30_encoding R94). -/
structure Response where
  status : Status
  data : Word
deriving DecidableEq, Repr

/-- What the outside can do to the block: present a command word (R5), or apply hardware reset (R280). -/
inductive Input where
  | command (w : Cmd)
  | hardReset
deriving DecidableEq, Repr

/-- The block's state (R30), with its parameters and the host's side of the port. -/
structure State where
  /-- The parameters of 00_scope section 4 but `NV`; no step changes them. -/
  params : Params
  -- global registers (10_state section 3)
  tblRdy : Bool
  err : Bool
  tlen : Word
  srate : F32
  frqti : F32
  cosoffs : Word
  errCause : Status
  errCmd : Cmd
  -- definition record (R44)
  defs : DefRecord
  /-- The voice contexts; `NV` is their number (R11, R31). -/
  voices : List Voice
  /-- The model's own: the inputs the host has still to present, in order (R6). -/
  pending : List Input
  /-- The model's own: the responses given so far, newest first (R6). -/
  responses : List Response
deriving DecidableEq, Repr

/-- Why the machine stops. -/
inductive Fault where
  /-- Raised by `SAMPLE` when the table would be read where the spec says it is not defined (00_scope R26). Safe:
  no state reachable from reset gets there (20_memory R71). -/
  | tableRange
deriving DecidableEq, Repr

/-- What the model gives no meaning to. -/
inductive Refusal where
  /-- Raised by `exec` for an instruction without a meaning; no arm raises it. Safe. -/
  | notModelled (mnemonic : String)
  /-- Raised by `step` when the parameters lie outside their constraints, for which the spec says the block is not
  defined (93_implementation_defined U28). Safe. -/
  | badParameters
deriving DecidableEq, Repr

/-- The coefficient set of all zeros. -/
def Taps.zero : Taps :=
  { in0 := 0, in1 := 0, in2 := 0, out1 := 0, out2 := 0 }

/-- A voice context after hardware reset: all zero but `LASTIDX = -1` (R68). -/
def Voice.reset : Voice :=
  { startLvl := 0, atkRt := 0, atkLvl := 0, decRt := 0, susLvl := 0, relRt := 0, relLvl := 0,
    curve := .lin, gain := 0, ftype := .lp,
    taps := Taps.zero, x1 := 0, x2 := 0, y1 := 0, y2 := 0, lastIdx := 0xFFFFFFFF,
    seg := .idle, lvl := 0, pos := 0, cnt := 0, tgt := 0, crv := .lin, coef := 0 }

/-- The definition record after hardware reset: all zero but the gain 1.0 (R44, R68). -/
def DefRecord.reset : DefRecord :=
  { startLvl := 0, atkRt := 0, atkLvl := 0, decRt := 0, susLvl := 0, relRt := 0, relLvl := 0,
    curve := 0, gain := 0x3F800000, ftype := 0 }

/-- The block after hardware reset with the given parameters and number of voice contexts (R68, R280), the host
having presented nothing. -/
def State.resetWith (p : Params) (nv : Nat) : State :=
  { params := p, tblRdy := false, err := false, tlen := 0, srate := 0, frqti := 0, cosoffs := 0,
    errCause := .ok, errCmd := 0, defs := DefRecord.reset, voices := List.replicate nv Voice.reset,
    pending := [], responses := [] }

/-- The block after hardware reset with the default parameters (R11 to R14, R68, R280). -/
def State.reset : State :=
  State.resetWith Params.default Params.defaultNV

end Sys2Proof.Machine
end

