-- ==== Sys2Proof/Machine/Float.lean ====
section
/-! DEFINITION. Binary32 arithmetic (00_scope R17 to R23): every primitive computes exactly in integers and rounds
once. A finite magnitude is held as a whole number of units of 2^-149, which every binary32 value is. -/

namespace Sys2Proof.Machine

/-! ## Constants (R19, R21) -/

/-- The canonical quiet NaN (R19). -/
def fNaN : F32 := 0x7FC00000
def fOne : F32 := 0x3F800000
def fTwo : F32 := 0x40000000
def fZero : F32 := 0x00000000
def fSqrt2 : F32 := 0x3FB504F3

/-! ## Fields and values (R17) -/

def fSign (x : F32) : Bool := x.getLsbD 31
def fExpField (x : F32) : Nat := (x.extractLsb' 23 8).toNat
def fFrac (x : F32) : Nat := (x.extractLsb' 0 23).toNat

def fIsNaN (x : F32) : Bool := fExpField x == 255 && fFrac x != 0
def fIsInf (x : F32) : Bool := fExpField x == 255 && fFrac x == 0

/-- The magnitude in units of 2^-149 (R17). For an infinity the formula gives 2^277, above every finite
magnitude, so that infinities compare as the extended reals (R20). -/
def fMag (x : F32) : Nat :=
  if fExpField x = 0 then fFrac x else (2 ^ 23 + fFrac x) * 2 ^ (fExpField x - 1)

/-- The signed value in units of 2^-149, of any operand but a NaN. -/
def fVal (x : F32) : Int :=
  if fSign x then -(fMag x : Int) else (fMag x : Int)

/-- The pattern with the given sign and the given low 31 bits. -/
def fPack (neg : Bool) (mag : Nat) : F32 :=
  BitVec.ofNat 32 (if neg then 2 ^ 31 + mag else mag)

/-- An infinity or a zero of the given sign. -/
def fInf (neg : Bool) : F32 := fPack neg 0x7F800000
def fZeroOf (neg : Bool) : F32 := fPack neg 0

/-! ## Rounding (R18) -/

/-- `n / d` rounded to the nearest integer, ties to even. -/
def roundNearestEven (n d : Nat) : Nat :=
  let q := n / d
  let r := n % d
  if 2 * r < d then q
  else if d < 2 * r then q + 1
  else if q % 2 = 0 then q else q + 1

/-- The low 31 bits of the binary32 value nearest to `n / d` units of 2^-149 (`0 < d`), ties to even; an infinity
from 2^128 - 2^103 on. The quantum is 2^k units, and the exponent field counts `k`: a significand that rounds up
to the next power of two carries into it. -/
def roundMag (n d : Nat) : Nat :=
  let k := Nat.log2 (n / d) - 23
  Nat.min (k * 2 ^ 23 + roundNearestEven n (d * 2 ^ k)) 0x7F800000

/-! ## Arithmetic (R18, R19) -/

/-- The exact integer value `z`, in units of 2^-149, rounded; zero gets the sign `zeroNeg`. -/
def fOfUnits (zeroNeg : Bool) (z : Int) : F32 :=
  if z = 0 then fZeroOf zeroNeg else fPack (decide (z < 0)) (roundMag z.natAbs 1)

def fadd (a b : F32) : F32 :=
  if fIsNaN a || fIsNaN b then fNaN
  else if fIsInf a then (if fIsInf b && fSign a != fSign b then fNaN else a)
  else if fIsInf b then b
  else fOfUnits (fSign a && fSign b) (fVal a + fVal b)

/-- The operand with its sign bit inverted. -/
def fNeg (x : F32) : F32 := x ^^^ 0x80000000

def fsub (a b : F32) : F32 := fadd a (fNeg b)

def fmul (a b : F32) : F32 :=
  let neg := fSign a != fSign b
  if fIsNaN a || fIsNaN b then fNaN
  else if fIsInf a then (if fMag b = 0 then fNaN else fInf neg)
  else if fIsInf b then (if fMag a = 0 then fNaN else fInf neg)
  else fPack neg (roundMag (fMag a * fMag b) (2 ^ 149))

def fdiv (a b : F32) : F32 :=
  let neg := fSign a != fSign b
  if fIsNaN a || fIsNaN b then fNaN
  else if fIsInf a then (if fIsInf b then fNaN else fInf neg)
  else if fIsInf b then fZeroOf neg
  else if fMag b = 0 then (if fMag a = 0 then fNaN else fInf neg)
  else fPack neg (roundMag (fMag a * 2 ^ 149) (fMag b))

/-- A mathematical integer rounded to binary32; 0 gives `+0.0`. -/
def i2f (n : Int) : F32 := fOfUnits false (n * 2 ^ 149)

/-! ## Comparisons (R20) and the floor (R23) -/

def flt (a b : F32) : Bool := !fIsNaN a && !fIsNaN b && decide (fVal a < fVal b)
def fgt (a b : F32) : Bool := !fIsNaN a && !fIsNaN b && decide (fVal b < fVal a)
def fge (a b : F32) : Bool := !fIsNaN a && !fIsNaN b && decide (fVal b ≤ fVal a)

/-- Neither a NaN nor an infinity. -/
def fIsFinite (x : F32) : Bool := fExpField x != 255

/-- The largest integer not above `p`; used only where `p` is at least zero and below `COSOFFS` (R23). -/
def floorIdx (p : F32) : Nat := fMag p / 2 ^ 149

end Sys2Proof.Machine
end

