-- ==== Sys2Proof/Machine/Operands.lean ====
section
/-! DEFINITION. Reading and writing registers by name (10_state; 44_params R211, R212): the voice registers, the
words of the definition record, the voice contexts, and how an `imm` field is read (30_encoding R93). -/

namespace Sys2Proof.Machine

/-! ## The `imm` field (R93) -/

/-- The field read as an `i32`. -/
def sext32 (w : Word) : Int := w.toInt

/-- The field read as a `u32`. -/
def zext32 (w : Word) : Nat := w.toNat

/-! ## Enumerated registers as 32-bit words (R32, R53, R55, R59) -/

def Curve.word : Curve → Word
  | .lin => 0
  | .exp => 1

/-- The curve type of a word that R211 has found valid: `w[7:0]` is 0 or 1. -/
def Curve.ofWord (w : Word) : Curve :=
  if w = 0 then .lin else .exp

def FilterType.word : FilterType → Word
  | .lp => 0

/-- The filter type of a word that R211 has found valid. -/
def FilterType.ofWord (_ : Word) : FilterType := .lp

def Seg.word : Seg → Word
  | .idle => 0
  | .attack => 1
  | .decay => 2
  | .sustain => 3
  | .release => 4
  | .done => 5

/-! ## The definition record (R44) -/

def DefRecord.get (d : DefRecord) : DefWord → Word
  | .startLvl => d.startLvl
  | .atkRt => d.atkRt
  | .atkLvl => d.atkLvl
  | .decRt => d.decRt
  | .susLvl => d.susLvl
  | .relRt => d.relRt
  | .relLvl => d.relLvl
  | .curve => d.curve
  | .gain => d.gain
  | .ftype => d.ftype

def DefRecord.set (d : DefRecord) (k : DefWord) (w : Word) : DefRecord :=
  match k with
  | .startLvl => { d with startLvl := w }
  | .atkRt => { d with atkRt := w }
  | .atkLvl => { d with atkLvl := w }
  | .decRt => { d with decRt := w }
  | .susLvl => { d with susLvl := w }
  | .relRt => { d with relRt := w }
  | .relLvl => { d with relLvl := w }
  | .curve => { d with curve := w }
  | .gain => { d with gain := w }
  | .ftype => { d with ftype := w }

/-- `ValidDefWord(k, w)`: the cause for which the word is no legal value of the register, or `ok` (R211). -/
def validDefWord (k : DefWord) (w : Word) : Status :=
  match k with
  | .atkRt | .decRt | .relRt => if sext32 w < 0 then .cfgRate else .ok
  | .curve => if 1 < zext32 w then .badValue else .ok
  | .ftype => if zext32 w ≠ 0 then .badValue else .ok
  | .startLvl | .atkLvl | .susLvl | .relLvl | .gain => .ok

/-- The words `SETENVDEF` uses, in the order it checks them (R233). -/
def envDefWords : List DefWord :=
  [.startLvl, .atkRt, .atkLvl, .decRt, .susLvl, .relRt, .relLvl, .curve]

/-- The words `FINIT` uses, in the order it checks them (R192). -/
def allDefWords : List DefWord :=
  envDefWords ++ [.gain, .ftype]

/-- The cause of the first word of the list that is not legal, or `ok` (R192, R233). -/
def firstInvalid (d : DefRecord) : List DefWord → Status
  | [] => .ok
  | k :: ks => if validDefWord k (d.get k) = .ok then firstInvalid d ks else validDefWord k (d.get k)

/-! ## Voice registers (R46 to R64) -/

def Voice.getDef (x : Voice) : DefWord → Word
  | .startLvl => x.startLvl
  | .atkRt => x.atkRt
  | .atkLvl => x.atkLvl
  | .decRt => x.decRt
  | .susLvl => x.susLvl
  | .relRt => x.relRt
  | .relLvl => x.relLvl
  | .curve => x.curve.word
  | .gain => x.gain
  | .ftype => x.ftype.word

/-- The register with the word written to it; R211 has been checked (R212). -/
def Voice.setDef (x : Voice) (k : DefWord) (w : Word) : Voice :=
  match k with
  | .startLvl => { x with startLvl := w }
  | .atkRt => { x with atkRt := w }
  | .atkLvl => { x with atkLvl := w }
  | .decRt => { x with decRt := w }
  | .susLvl => { x with susLvl := w }
  | .relRt => { x with relRt := w }
  | .relLvl => { x with relLvl := w }
  | .curve => { x with curve := Curve.ofWord w }
  | .gain => { x with gain := w }
  | .ftype => { x with ftype := FilterType.ofWord w }

/-- The eight words of the envelope definition taken from the record (R233). -/
def Voice.loadEnvDef (x : Voice) (d : DefRecord) : Voice :=
  { x with
    startLvl := d.startLvl, atkRt := d.atkRt, atkLvl := d.atkLvl, decRt := d.decRt,
    susLvl := d.susLvl, relRt := d.relRt, relLvl := d.relLvl, curve := Curve.ofWord d.curve }

/-- The ten definition registers taken from the record (R192). -/
def Voice.loadDef (x : Voice) (d : DefRecord) : Voice :=
  { x.loadEnvDef d with gain := d.gain, ftype := FilterType.ofWord d.ftype }

/-- Words 0 to 7 of the record taken from the voice (R232). -/
def DefRecord.takeEnvDef (d : DefRecord) (x : Voice) : DefRecord :=
  { d with
    startLvl := x.startLvl, atkRt := x.atkRt, atkLvl := x.atkLvl, decRt := x.decRt,
    susLvl := x.susLvl, relRt := x.relRt, relLvl := x.relLvl, curve := x.curve.word }

def Taps.get (c : Taps) : Tap → F32
  | .in0 => c.in0
  | .in1 => c.in1
  | .in2 => c.in2
  | .out1 => c.out1
  | .out2 => c.out2

def Taps.set (c : Taps) (t : Tap) (w : F32) : Taps :=
  match t with
  | .in0 => { c with in0 := w }
  | .in1 => { c with in1 := w }
  | .in2 => { c with in2 := w }
  | .out1 => { c with out1 := w }
  | .out2 => { c with out2 := w }

/-- `LASTIDX` when no index is cached (R58). -/
def noIdx : Word := 0xFFFFFFFF

/-- A coefficient register written by the host: the cache is invalidated (R212, R85). -/
def Voice.setTap (x : Voice) (t : Tap) (w : F32) : Voice :=
  { x with taps := x.taps.set t w, lastIdx := noIdx }

/-- A voice register as 32 bits (R32, R228). -/
def Voice.get (x : Voice) : VReg → Word
  | .defn k => x.getDef k
  | .tap t => x.taps.get t
  | .x1 => x.x1
  | .x2 => x.x2
  | .y1 => x.y1
  | .y2 => x.y2
  | .lastIdx => x.lastIdx
  | .seg => x.seg.word
  | .lvl => x.lvl
  | .pos => x.pos
  | .cnt => x.cnt
  | .tgt => x.tgt
  | .crv => x.crv.word
  | .coef => x.coef

/-! ## Voice contexts (R31) -/

/-- `NV`, the number of voice contexts (R11). -/
def State.nv (s : State) : Nat := s.voices.length

/-- The context with number `v`; none when `v ≥ NV`. -/
def State.voice? (s : State) (v : VoiceNo) : Option Voice := s.voices[v.toNat]?

/-- The state with context `v` replaced. -/
def State.setVoice (s : State) (v : VoiceNo) (x : Voice) : State :=
  { s with voices := s.voices.set v.toNat x }

end Sys2Proof.Machine
end

