-- ==== Sys2Proof/Machine/Flags.lean ====
section
/-! DEFINITION. The two flags, the STATUS register and the error capture (10_state R34, R35, R40, R41;
60_exceptions R253). The block has no condition codes. -/

namespace Sys2Proof.Machine

/-- `STATUS`: bit 0 `TBL_RDY`, bit 1 `ERR`, bits 31:2 zero (R35). -/
def State.statusWord (s : State) : Word :=
  0#30 ++ BitVec.ofBool s.err ++ BitVec.ofBool s.tblRdy

/-- The error capture: the first rejection since hardware reset is recorded, later ones are not (R253). -/
def State.capture (c : Status) (w : Cmd) (s : State) : State :=
  if s.err then s else { s with err := true, errCause := c, errCmd := w }

end Sys2Proof.Machine
end

