-- ==== Sys2Proof/Machine/Sine.lean ====
section
/-! DEFINITION. The sine generator `SINROM` (00_scope R13) and the table entries it gives (40_table R120). -/

namespace Sys2Proof.Machine

/-- One in the fixed-point format of this file: 128 fraction bits. -/
def fixOne : Nat := 2 ^ 128

/-- Pi, rounded down to 128 fraction bits. -/
def fixPi : Nat := 0x3243F6A8885A308D313198A2E03707344

/-- `n` terms of `1 - t/(2k(2k+1)) * (1 - t/((2k+2)(2k+3)) * (...))` in fixed point, the sine series divided by its
argument when `t` is the argument's square and `k = 1`. -/
def fixSineSeries (t : Nat) : (n k : Nat) → Nat
  | 0, _ => fixOne
  | n + 1, k => fixOne - t * fixSineSeries t n (k + 1) / (fixOne * (2 * k * (2 * k + 1)))

/-- `sin(2*pi*j/tableLen)` in fixed point, for an angle in the first quadrant: 22 terms of the series. -/
def fixSine (tableLen j : Nat) : Nat :=
  let x := 2 * fixPi * j / tableLen
  x * fixSineSeries (x * x / fixOne) 22 1 / fixOne

/-- The magnitude pattern of the sine at `j` steps from the nearer zero crossing, `0 ≤ j ≤ tableLen / 4`, the
quadrant points exact (R13). -/
def sineMag (tableLen j : Nat) : Nat :=
  if j = 0 then 0
  else if j = tableLen / 4 then 0x3F800000
  else roundMag (fixSine tableLen j * 2 ^ 21) 1

/-- The default `SINROM` (R13): `sin(2*pi*index/tableLen)` rounded once to binary32, the quadrant points exact.
The table's symmetries (R120) reduce the index to the first quadrant. That 128 fraction bits round every entry of
every legal table correctly is log 5. -/
def roundedSine (tableLen index : Nat) : F32 :=
  let half := tableLen / 2
  let r := index % half
  let j := if r ≤ tableLen / 4 then r else half - r
  fPack (decide (half ≤ index) && decide (j ≠ 0)) (sineMag tableLen j)

/-- `SINROM(tableLen, index)` of a block with the given generator (R13). -/
def sinRom (r : SinRom) (tableLen index : Nat) : F32 :=
  match r with
  | .rounded => roundedSine tableLen index
  | .other id => Config.otherSinRom id tableLen index

end Sys2Proof.Machine
end

