-- ==== Sys2Proof/Machine/Ops.lean ====
section
/-! DEFINITION. The operations the commands share: responding and rejecting, which is the block's whole exception
entry (60_exceptions R253, R254), reading the table (20_memory R71), reset (70_reset_and_hazards R280, R281), the
global registers, and the command port (00_scope R5, R6). -/

namespace Sys2Proof.Machine

/-- What a command's meaning answers. -/
abbrev Result := Host.Outcome State Fault Refusal

/-! ## Responses (00_scope R27) -/

/-- `respond d`. -/
def respond (d : Word) (s : State) : State :=
  { s with responses := { status := .ok, data := d } :: s.responses }

/-- `reject c` of the command word `w`: the error capture, the response `(c, 0)`, nothing else (R253, R254). -/
def reject (c : Status) (w : Cmd) (s : State) : State :=
  let t := s.capture c w
  { t with responses := { status := c, data := 0 } :: t.responses }

/-- A command carried out. -/
def done (d : Word) (s : State) : Result := .next (respond d s)

/-- The command `i` rejected with cause `c`. Its word is the one its fields encode: decoding accepts no other
word for it (R97, R99). -/
def rejected (c : Status) (i : Instr) (s : State) : Result := .next (reject c (encode i) s)

/-- The meaning of a command that names voice `v`. Decoding has rejected a number that names no context (R97 step
3); a meaning given one rejects it alike. -/
def withVoice (v : VoiceNo) (i : Instr) (s : State) (k : Voice → Result) : Result :=
  match s.voice? v with
  | none => rejected .badVoice i s
  | some x => k x

/-! ## The waveform table (R26, R45, R71) -/

/-- `WT[i]`: `SINROM(TLEN, i)`, defined only for `0 ≤ i < TLEN` with `TBL_RDY = 1`. -/
def State.wt (s : State) (i : Nat) : Option F32 :=
  if s.tblRdy && decide ((i : Int) < sext32 s.tlen) then some (sinRom s.params.sinRom (sext32 s.tlen).toNat i)
  else none

/-- `LMAX` (R12). -/
def State.lmax (s : State) : Nat := 2 ^ s.params.log2Lmax

/-- `n` is a power of two (for `0 < n`). -/
def isPow2 (n : Nat) : Bool := n == 2 ^ Nat.log2 n

/-- A table length the block accepts: a power of two in `4 .. LMAX` (R122). -/
def legalLength (lmax : Nat) (n : Int) : Bool :=
  decide (4 ≤ n) && decide (n ≤ lmax) && isPow2 n.toNat

/-- A sample rate the block accepts: finite and greater than zero (R121, R122). -/
def legalRate (x : F32) : Bool :=
  fIsFinite x && fgt x fZero

/-! ## Global registers (R35 to R43) -/

/-- A global register as 32 bits (R32, R125). -/
def State.getGlobal (s : State) : GReg → Word
  | .status => s.statusWord
  | .tlen => s.tlen
  | .srate => s.srate
  | .frqti => s.frqti
  | .cosoffs => s.cosoffs
  | .errCause => (s.errCause.code).setWidth 32
  | .errCmdLo => s.errCmd.extractLsb' 0 32
  | .errCmdHi => s.errCmd.extractLsb' 32 32
  | .nvoices => BitVec.ofNat 32 s.nv
  | .lmaxr => BitVec.ofNat 32 s.lmax

/-! ## Reset (R280, R281) -/

/-- Hardware reset: every piece of the block's state at its reset value (R280). The parameters, the number of
contexts and the host's side of the port are no state of the block and stay. -/
def hardwareReset (s : State) : State :=
  { State.resetWith s.params s.nv with pending := s.pending, responses := s.responses }

/-- What `TDOWN` leaves: the reset state with the three capture registers kept (R124, R281). -/
def tearDown (s : State) : State :=
  { hardwareReset s with err := s.err, errCause := s.errCause, errCmd := s.errCmd }

/-! ## Parameters (R11 to R14) -/

/-- The parameters satisfy their constraints: `NV` in `1 .. 256`, `LOG2_LMAX` in `2 .. 24`, `EXPK > 0`. -/
def State.legalParams (s : State) : Bool :=
  decide (1 ≤ s.nv) && decide (s.nv ≤ 256)
  && decide (2 ≤ s.params.log2Lmax) && decide (s.params.log2Lmax ≤ 24)
  && fgt s.params.expk fZero

/-! ## The command port (R5, R6, R74) -/

/-- The next input the host presents and the state that has taken it; none when the host presents nothing. -/
def State.takeInput (s : State) : Option (Input × State) :=
  match s.pending with
  | [] => none
  | i :: rest => some (i, { s with pending := rest })

/-- A response as the 64-bit word `zero[23:0], status[7:0], data[31:0]` (R74). -/
def Response.word (r : Response) : BitVec 64 :=
  0#24 ++ r.status.code ++ r.data

end Sys2Proof.Machine
end

