-- ==== Sys2Proof/Machine/Biquad.lean ====
section
/-! DEFINITION. The biquad filter core and its command (42_biquad R171, R172). -/

namespace Sys2Proof.Machine

/-- The output of the difference equation: five products, then the sums from left to right (R171). -/
def biquadOut (x : Voice) (input : F32) : F32 :=
  let t0 := fmul x.taps.in0 input
  let t1 := fmul x.taps.in1 x.x1
  let t2 := fmul x.taps.in2 x.x2
  let t3 := fmul x.taps.out1 x.y1
  let t4 := fmul x.taps.out2 x.y2
  fsub (fsub (fadd (fadd t0 t1) t2) t3) t4

/-- `Biquad(v, x)`: the output, and the voice with its history shifted (R171). -/
def biquad (x : Voice) (input : F32) : F32 × Voice :=
  let y := biquadOut x input
  (y, { x with x2 := x.x1, x1 := input, y2 := x.y1, y1 := y })

/-- `BQSAMP` (R172). -/
def execBqsamp (v : VoiceNo) (input : F32) (s : State) : Result :=
  withVoice v (.bqsamp v input) s fun x =>
    let (y, x') := biquad x input
    done y (s.setVoice v x')

end Sys2Proof.Machine
end

