-- ==== Sys2Proof/Machine/Envelope.lean ====
section
/-! DEFINITION. The envelope state machine and its commands (41_envelope R140 to R151). -/

namespace Sys2Proof.Machine

/-- The ramp states (10_state R59). -/
def Seg.isRamp : Seg → Bool
  | .attack | .decay | .release => true
  | .idle | .sustain | .done => false

/-- The state that follows a completed ramp (R142). It is applied to no other state; those stay themselves. -/
def Seg.next : Seg → Seg
  | .attack => .decay
  | .decay => .sustain
  | .release => .done
  | .idle => .idle
  | .sustain => .sustain
  | .done => .done

/-! ## Entering a segment (R143) -/

/-- The hold part of `EnterSeg`. -/
def enterHold (g : Seg) (x : Voice) : Voice :=
  { x with seg := g, pos := 0, cnt := 0, tgt := x.lvl, crv := .lin, coef := fZero }

/-- `COEF` of an exponential segment of `n` steps: `min(1.0, EXPK / n)` (R143, R147). -/
def expCoef (expk : F32) (n : Word) : F32 :=
  let c := fdiv expk (i2f (zext32 n : Nat))
  if fgt c fOne then fOne else c

/-- The ramp part of `EnterSeg`, for a rate `n` other than zero and target `t`. -/
def enterRamp (expk : F32) (g : Seg) (n : Word) (t : F32) (x : Voice) : Voice :=
  { x with
    seg := g, pos := 0, cnt := n, tgt := t, crv := x.curve
    coef := match x.curve with
      | .exp => expCoef expk n
      | .lin => fZero }

/-- `EnterSeg(v, RELEASE)`: a zero rate jumps to the target and enters `DONE`. -/
def enterRelease (expk : F32) (x : Voice) : Voice :=
  if x.relRt = 0 then enterHold .done { x with lvl := x.relLvl }
  else enterRamp expk .release x.relRt x.relLvl x

/-- `EnterSeg(v, DECAY)`: a zero rate jumps to the target and enters `SUSTAIN`. -/
def enterDecay (expk : F32) (x : Voice) : Voice :=
  if x.decRt = 0 then enterHold .sustain { x with lvl := x.susLvl }
  else enterRamp expk .decay x.decRt x.susLvl x

/-- `EnterSeg(v, ATTACK)`: a zero rate jumps to the target and enters `DECAY`. -/
def enterAttack (expk : F32) (x : Voice) : Voice :=
  if x.atkRt = 0 then enterDecay expk { x with lvl := x.atkLvl }
  else enterRamp expk .attack x.atkRt x.atkLvl x

/-- `EnterSeg(v, s)` (R143). It is never called with `IDLE`, which leaves the voice as it is. -/
def enterSeg (expk : F32) (g : Seg) (x : Voice) : Voice :=
  match g with
  | .idle => x
  | .attack => enterAttack expk x
  | .decay => enterDecay expk x
  | .sustain => enterHold .sustain x
  | .release => enterRelease expk x
  | .done => enterHold .done x

/-! ## The step (R145 to R149) -/

/-- The level after one step of the running ramp. -/
def rampLevel (x : Voice) : F32 :=
  let rem := x.cnt - x.pos
  if rem = 1 then x.tgt
  else match x.crv with
    | .lin => fadd x.lvl (fdiv (fsub x.tgt x.lvl) (i2f (zext32 rem : Nat)))
    | .exp => fadd x.lvl (fmul x.coef (fsub x.tgt x.lvl))

/-- One step of the running ramp, which enters the next segment when it completes. -/
def rampStep (expk : F32) (x : Voice) : Voice :=
  let y := { x with lvl := rampLevel x, pos := x.pos + 1 }
  if y.pos = y.cnt then enterSeg expk y.seg.next y else y

/-- The voice after `EnvStep`: only a ramp state moves. -/
def envAdvance (expk : F32) (x : Voice) : Voice :=
  if x.seg.isRamp then rampStep expk x else x

/-- `EnvStep(v)`: the level before the step, and the voice after it (R145). -/
def envStep (expk : F32) (x : Voice) : F32 × Voice :=
  (x.lvl, envAdvance expk x)

/-- `EnvStep` repeated `n` times, the levels discarded (R193); it stops early in a hold state, where a step
changes nothing. -/
def envSkip (expk : F32) : (n : Nat) → Voice → Voice
  | 0, x => x
  | n + 1, x => if x.seg.isRamp then envSkip expk n (envAdvance expk x) else x

/-! ## Commands -/

/-- `EGEN` (R150). -/
def execEgen (v : VoiceNo) (s : State) : Result :=
  withVoice v (.egen v) s fun x =>
    if x.seg = .idle then rejected .notInit (.egen v) s
    else
      let (level, y) := envStep s.params.expk x
      done level (s.setVoice v y)

/-- The voice after the release signal: `ATTACK`, `DECAY` and `SUSTAIN` enter `RELEASE`, the rest stay (R151). -/
def releaseVoice (expk : F32) (x : Voice) : Voice :=
  match x.seg with
  | .attack | .decay | .sustain => enterSeg expk .release x
  | .idle | .release | .done => x

/-- `RELEASE` (R151). -/
def execRelease (v : VoiceNo) (s : State) : Result :=
  withVoice v (.release v) s fun x =>
    if x.seg = .idle then rejected .notInit (.release v) s
    else done 0 (s.setVoice v (releaseVoice s.params.expk x))

end Sys2Proof.Machine
end

