-- ==== Sys2Proof/Machine/Coupling.lean ====
section
/-! DEFINITION. The adaptive coefficient coupling and the voice commands (43_coupling R181 to R194). -/

namespace Sys2Proof.Machine

/-! ## Coefficients (R186) -/

/-- The five coefficients from the sine and cosine entries, in the order and association of R186. -/
def tapsOf (sinVal cosVal : F32) : Taps :=
  let c := fdiv cosVal sinVal
  let c2 := fmul c c
  let cSqrt2 := fmul fSqrt2 c
  let denom := fdiv fOne (fadd (fadd c2 cSqrt2) fOne)
  { in0 := denom
    in1 := fmul fTwo denom
    in2 := denom
    out1 := fmul (fmul fTwo (fsub fOne c2)) denom
    out2 := fmul (fadd (fsub c2 cSqrt2) fOne) denom }

/-- `CoefLP(idx)`; none where the table is not defined at `idx` or `idx + COSOFFS`. -/
def State.coefLP (s : State) (idx : Nat) : Option Taps :=
  match s.wt idx, s.wt (idx + zext32 s.cosoffs) with
  | some sinVal, some cosVal => some (tapsOf sinVal cosVal)
  | _, _ => none

/-- Steps 4 and 5: the coefficients are recomputed when the index is not the cached one (R185, R188). -/
def State.refresh (s : State) (idx : Nat) (x : Voice) : Option Voice :=
  if BitVec.ofNat 32 idx = x.lastIdx then some x
  else match s.coefLP idx with
    | none => none
    | some c => some { x with taps := c, lastIdx := BitVec.ofNat 32 idx }

/-- Step 3: the product is in the valid range, so the sample is filtered (R184). -/
def State.inRange (s : State) (p : F32) : Bool :=
  fge p fZero && flt p (i2f (sext32 s.cosoffs))

/-! ## Commands -/

/-- `SAMPLE` (R181). -/
def execSample (v : VoiceNo) (input : F32) (s : State) : Result :=
  withVoice v (.sample v input) s fun x =>
    if !s.tblRdy then rejected .tblNotReady (.sample v input) s
    else if x.seg = .idle then rejected .notInit (.sample v input) s
    else
      let (level, x1) := envStep s.params.expk x
      let p := fmul level s.frqti
      if s.inRange p then
        match s.refresh (floorIdx p) x1 with
        | none => .fault .tableRange
        | some x2 =>
          let (y, x3) := biquad x2 input
          done y (s.setVoice v x3)
      else done input (s.setVoice v x1)

/-- The history cleared (R192, R193). -/
def Voice.clearHistory (x : Voice) : Voice :=
  { x with x1 := fZero, x2 := fZero, y1 := fZero, y2 := fZero }

/-- The envelope started again at the start level (R192, R193). -/
def restart (expk : F32) (x : Voice) : Voice :=
  enterSeg expk .attack { x with lvl := x.startLvl }

/-- The voice `FINIT` leaves, from the definition record (R192). -/
def initVoice (expk : F32) (d : DefRecord) (x : Voice) : Voice :=
  restart expk { (x.loadDef d).clearHistory with taps := Taps.zero, lastIdx := noIdx }

/-- `FINIT` (R192). -/
def execFinit (v : VoiceNo) (s : State) : Result :=
  withVoice v (.finit v) s fun x =>
    if !s.tblRdy then rejected .tblNotReady (.finit v) s
    else if firstInvalid s.defs allDefWords ≠ .ok then rejected (firstInvalid s.defs allDefWords) (.finit v) s
    else done 0 (s.setVoice v (initVoice s.params.expk s.defs x))

/-- `FRESET` (R193). -/
def execFreset (v : VoiceNo) (phase : Word) (s : State) : Result :=
  withVoice v (.freset v phase) s fun x =>
    if x.seg = .idle then rejected .notInit (.freset v phase) s
    else done 0 (s.setVoice v
      (envSkip s.params.expk (zext32 phase) (restart s.params.expk x.clearHistory)))

/-- `COPY` (R194). -/
def execCopy (vd vs : VoiceNo) (s : State) : Result :=
  withVoice vd (.copy vd vs) s fun _ =>
    withVoice vs (.copy vd vs) s fun x =>
      if vd = vs then done 0 s else done 0 (s.setVoice vd x)

end Sys2Proof.Machine
end

