-- ==== Sys2Proof/Machine/Parameters.lean ====
section
/-! DEFINITION. Parameter access and the definition record (44_params R212 to R233). -/

namespace Sys2Proof.Machine

/-! ## The body the `SET...` commands share (R212) -/

/-- `Set(v, p, w)` for a definition selector `k`; `i` is the command itself. -/
def setDefinition (k : DefWord) (i : Instr) (v : VoiceNo) (w : Word) (s : State) : Result :=
  withVoice v i s fun x =>
    if validDefWord k w = .ok then done 0 (s.setVoice v (x.setDef k w))
    else rejected (validDefWord k w) i s

/-- `Set(v, p, w)` for a coefficient selector `t`; `i` is the command itself. -/
def setCoefficient (t : Tap) (i : Instr) (v : VoiceNo) (w : Word) (s : State) : Result :=
  withVoice v i s fun x => done 0 (s.setVoice v (x.setTap t w))

/-! ## The `SET...` commands (R213 to R227) -/

/-- `SETSTART` (R213). -/
def execSetstart (v : VoiceNo) (w : Word) (s : State) : Result :=
  setDefinition .startLvl (.setstart v w) v w s

/-- `SETATKRT` (R214). -/
def execSetatkrt (v : VoiceNo) (w : Word) (s : State) : Result :=
  setDefinition .atkRt (.setatkrt v w) v w s

/-- `SETATKLVL` (R215). -/
def execSetatklvl (v : VoiceNo) (w : Word) (s : State) : Result :=
  setDefinition .atkLvl (.setatklvl v w) v w s

/-- `SETDECRT` (R216). -/
def execSetdecrt (v : VoiceNo) (w : Word) (s : State) : Result :=
  setDefinition .decRt (.setdecrt v w) v w s

/-- `SETSUSLVL` (R217). -/
def execSetsuslvl (v : VoiceNo) (w : Word) (s : State) : Result :=
  setDefinition .susLvl (.setsuslvl v w) v w s

/-- `SETRELRT` (R218). -/
def execSetrelrt (v : VoiceNo) (w : Word) (s : State) : Result :=
  setDefinition .relRt (.setrelrt v w) v w s

/-- `SETRELLVL` (R219). -/
def execSetrellvl (v : VoiceNo) (w : Word) (s : State) : Result :=
  setDefinition .relLvl (.setrellvl v w) v w s

/-- `SETTYPE` (R220). -/
def execSettype (v : VoiceNo) (w : Word) (s : State) : Result :=
  setDefinition .curve (.settype v w) v w s

/-- `SETGAIN` (R221). -/
def execSetgain (v : VoiceNo) (w : Word) (s : State) : Result :=
  setDefinition .gain (.setgain v w) v w s

/-- `SETFTYPE` (R222). -/
def execSetftype (v : VoiceNo) (w : Word) (s : State) : Result :=
  setDefinition .ftype (.setftype v w) v w s

/-- `SETIN0` (R223). -/
def execSetin0 (v : VoiceNo) (w : Word) (s : State) : Result :=
  setCoefficient .in0 (.setin0 v w) v w s

/-- `SETIN1` (R224). -/
def execSetin1 (v : VoiceNo) (w : Word) (s : State) : Result :=
  setCoefficient .in1 (.setin1 v w) v w s

/-- `SETIN2` (R225). -/
def execSetin2 (v : VoiceNo) (w : Word) (s : State) : Result :=
  setCoefficient .in2 (.setin2 v w) v w s

/-- `SETOUT1` (R226). -/
def execSetout1 (v : VoiceNo) (w : Word) (s : State) : Result :=
  setCoefficient .out1 (.setout1 v w) v w s

/-- `SETOUT2` (R227). -/
def execSetout2 (v : VoiceNo) (w : Word) (s : State) : Result :=
  setCoefficient .out2 (.setout2 v w) v w s

/-! ## Reading, and the definition record (R228 to R233) -/

/-- `GETP` (R228). -/
def execGetp (v : VoiceNo) (p : VReg) (s : State) : Result :=
  withVoice v (.getp v p) s fun x => done (x.get p) s

/-- `DEFWR` (R230). -/
def execDefwr (k : DefWord) (w : Word) (s : State) : Result :=
  done 0 { s with defs := s.defs.set k w }

/-- `DEFRD` (R231). -/
def execDefrd (k : DefWord) (s : State) : Result :=
  done (s.defs.get k) s

/-- `GETENVDEF` (R232). -/
def execGetenvdef (v : VoiceNo) (s : State) : Result :=
  withVoice v (.getenvdef v) s fun x => done 0 { s with defs := s.defs.takeEnvDef x }

/-- `SETENVDEF` (R233). -/
def execSetenvdef (v : VoiceNo) (s : State) : Result :=
  withVoice v (.setenvdef v) s fun x =>
    if firstInvalid s.defs envDefWords = .ok then done 0 (s.setVoice v (x.loadEnvDef s.defs))
    else rejected (firstInvalid s.defs envDefWords) (.setenvdef v) s

end Sys2Proof.Machine
end

