-- ==== Sys2Proof/Machine/Table.lean ====
section
/-! DEFINITION. The waveform table and global configuration commands (40_table R121 to R125). -/

namespace Sys2Proof.Machine

/-- `SETSR` (R121). -/
def execSetsr (rate : F32) (s : State) : Result :=
  if s.tblRdy then rejected .tblLocked (.setsr rate) s
  else if legalRate rate then done 0 { s with srate := rate }
  else rejected .cfgSrate (.setsr rate) s

/-- The globals a successful `TINIT` writes; the table's entries are then those of `State.wt` (R122, R45). -/
def buildTable (len : Word) (s : State) : State :=
  { s with
    tlen := len
    cosoffs := BitVec.ofNat 32 (zext32 len / 4)
    frqti := fdiv (i2f (zext32 len / 2 : Nat)) s.srate
    tblRdy := true }

/-- `TINIT` (R122). -/
def execTinit (len : Word) (s : State) : Result :=
  if s.tblRdy then rejected .tblLocked (.tinit len) s
  else if !legalLength s.lmax (sext32 len) then rejected .cfgTableLen (.tinit len) s
  else if !legalRate s.srate then rejected .cfgSrate (.tinit len) s
  else done 0 (buildTable len s)

/-- `TLOOK` (R123). -/
def execTlook (index : Word) (s : State) : Result :=
  if !s.tblRdy then rejected .tblNotReady (.tlook index) s
  else if sext32 index < 0 then rejected .tblIndex (.tlook index) s
  else match s.wt (zext32 index) with
    | none => rejected .tblIndex (.tlook index) s
    | some e => done e s

/-- `TDOWN` (R124). -/
def execTdown (s : State) : Result :=
  done 0 (tearDown s)

/-- `GETG` (R125). -/
def execGetg (g : GReg) (s : State) : Result :=
  done (s.getGlobal g) s

end Sys2Proof.Machine
end

