-- ==== Sys2Proof/Machine/Dispatch.lean ====
section
/-! DEFINITION. The meaning of every command, one arm per row of the opcode table. -/

namespace Sys2Proof.Machine

def exec (i : Instr) (s : State) : Host.Outcome State Fault Refusal :=
  match i with
  | .tinit len => Sys2Proof.Machine.execTinit len s
  | .tdown => Sys2Proof.Machine.execTdown s
  | .setsr rate => Sys2Proof.Machine.execSetsr rate s
  | .tlook index => Sys2Proof.Machine.execTlook index s
  | .getg g => Sys2Proof.Machine.execGetg g s
  | .finit v => Sys2Proof.Machine.execFinit v s
  | .freset v phase => Sys2Proof.Machine.execFreset v phase s
  | .release v => Sys2Proof.Machine.execRelease v s
  | .copy vd vs => Sys2Proof.Machine.execCopy vd vs s
  | .sample v x => Sys2Proof.Machine.execSample v x s
  | .bqsamp v x => Sys2Proof.Machine.execBqsamp v x s
  | .egen v => Sys2Proof.Machine.execEgen v s
  | .setstart v w => Sys2Proof.Machine.execSetstart v w s
  | .setatkrt v w => Sys2Proof.Machine.execSetatkrt v w s
  | .setatklvl v w => Sys2Proof.Machine.execSetatklvl v w s
  | .setdecrt v w => Sys2Proof.Machine.execSetdecrt v w s
  | .setsuslvl v w => Sys2Proof.Machine.execSetsuslvl v w s
  | .setrelrt v w => Sys2Proof.Machine.execSetrelrt v w s
  | .setrellvl v w => Sys2Proof.Machine.execSetrellvl v w s
  | .settype v w => Sys2Proof.Machine.execSettype v w s
  | .setgain v w => Sys2Proof.Machine.execSetgain v w s
  | .setftype v w => Sys2Proof.Machine.execSetftype v w s
  | .setin0 v w => Sys2Proof.Machine.execSetin0 v w s
  | .setin1 v w => Sys2Proof.Machine.execSetin1 v w s
  | .setin2 v w => Sys2Proof.Machine.execSetin2 v w s
  | .setout1 v w => Sys2Proof.Machine.execSetout1 v w s
  | .setout2 v w => Sys2Proof.Machine.execSetout2 v w s
  | .getp v p => Sys2Proof.Machine.execGetp v p s
  | .defwr k w => Sys2Proof.Machine.execDefwr k w s
  | .defrd k => Sys2Proof.Machine.execDefrd k s
  | .getenvdef v => Sys2Proof.Machine.execGetenvdef v s
  | .setenvdef v => Sys2Proof.Machine.execSetenvdef v s

end Sys2Proof.Machine
end

