-- ==== Sys2Proof/Machine/Port.lean ====
section
/-! DEFINITION. What one input does to the block (00_scope R5, R6; 30_encoding R97; 70_reset_and_hazards R280). -/

namespace Sys2Proof.Machine

/-- The command word `w` executed: decoded, then carried out or rejected (R97). -/
def execWord (w : Cmd) (s : State) : Host.Outcome State Fault Refusal :=
  match decode s.nv w with
  | .error c => .next (reject c w s)
  | .ok i => exec i s

/-- One input: a command word, or hardware reset (R280). -/
def execInput (i : Input) (s : State) : Host.Outcome State Fault Refusal :=
  match i with
  | .command w => execWord w s
  | .hardReset => .next (hardwareReset s)

end Sys2Proof.Machine
end

