-- ==== Sys2Proof/Machine/Step.lean ====
section
/-! DEFINITION. One step of the machine: the host presents its next input, and the block executes it to completion
(00_scope R5, R6; 10_state R33). -/

namespace Sys2Proof.Machine

/-- One step. With nothing presented no state changes (R5); parameters outside their constraints are refused (U28). -/
def step (s : State) : Host.Outcome State Fault Refusal :=
  if s.legalParams then
    match s.takeInput with
    | none => .next s
    | some (i, t) => execInput i t
  else .refused .badParameters

/-- The state in which the host presents the command word with the given bits next. -/
def State.withFetchWord (s : State) (nbits w : Nat) : State :=
  { s with pending := .command (cmdOfBits nbits w) :: s.pending }

end Sys2Proof.Machine
end

