-- ==== Sys2Proof/Safety.lean ====
section
/-! DEFINITION. What holds of the block in every state reachable from reset (10_state R66, with R36 to R41 and R61
to R64), what a safe outcome is, and sequences of commands and steps. -/

namespace Sys2Proof.Machine

/-- The registers of one voice context agree with each other and with the table. -/
structure Voice.Ok (s : State) (x : Voice) : Prop where
  /-- R66 (a). -/
  atkRt : 0 ≤ sext32 x.atkRt
  decRt : 0 ≤ sext32 x.decRt
  relRt : 0 ≤ sext32 x.relRt
  /-- R66 (c), R62. -/
  ramp : x.seg.isRamp = true → zext32 x.pos < zext32 x.cnt ∧ 0 ≤ sext32 x.cnt
  /-- R66 (d), R63, R64. -/
  hold : x.seg.isRamp = false → x.pos = 0 ∧ x.cnt = 0 ∧ x.crv = .lin
  /-- R63: in the hold states the target is the level. -/
  held : x.seg = .sustain ∨ x.seg = .done → x.tgt = x.lvl
  /-- R64. -/
  linear : x.crv = .lin → x.coef = fZero
  /-- R66 (e). -/
  cacheRange : x.lastIdx = noIdx ∨ (s.tblRdy = true ∧ zext32 x.lastIdx < zext32 s.cosoffs)
  /-- R66 (f). -/
  cache : x.lastIdx ≠ noIdx → s.coefLP (zext32 x.lastIdx) = some x.taps
  /-- R66 (g). -/
  ready : x.seg ≠ .idle → s.tblRdy = true

/-- The block's registers agree with each other. R66 (b) holds by the types of the registers. -/
structure State.Ok (s : State) : Prop where
  /-- R11, R12, R14. -/
  params : s.legalParams = true
  /-- R36: the table length of a session. -/
  tlen : s.tblRdy = true → legalLength s.lmax (sext32 s.tlen) = true
  /-- R38, R39: what `TINIT` derived from it. -/
  cosoffs : s.tblRdy = true → s.cosoffs = BitVec.ofNat 32 (zext32 s.tlen / 4)
  frqti : s.tblRdy = true → s.frqti = fdiv (i2f (zext32 s.tlen / 2 : Nat)) s.srate
  srate : s.tblRdy = true → legalRate s.srate = true
  /-- R36, R38, R39: without a table they read zero. -/
  down : s.tblRdy = false → s.tlen = 0 ∧ s.frqti = 0 ∧ s.cosoffs = 0
  /-- R37. -/
  rate : s.srate = 0 ∨ legalRate s.srate = true
  /-- R40, R41. -/
  noError : s.err = false → s.errCause = .ok ∧ s.errCmd = 0
  error : s.err = true → s.errCause ≠ .ok
  voices : ∀ x ∈ s.voices, x.Ok s

/-- The machine goes on: it neither faults nor refuses. -/
def Result.goesOn (r : Result) : Prop :=
  ∃ t, r = .next t

/-! ## Sequences of commands and runs (00_scope R6) -/

/-- The commands of the list carried out one after another; none when one of them stops the machine. -/
def execAll : List Instr → State → Option State
  | [], s => some s
  | i :: is, s =>
    match exec i s with
    | .next t => execAll is t
    | .fault _ => none
    | .refused _ => none

/-- `n` steps of the machine; none when one of them stops it. -/
def runSteps : Nat → State → Option State
  | 0, s => some s
  | n + 1, s =>
    match step s with
    | .next t => runSteps n t
    | .fault _ => none
    | .refused _ => none

/-- The commands of one voice that are functions of its context, the global registers and the table (42_biquad
R176). -/
inductive VoiceOp where
  | sample (x : F32)
  | bqsamp (x : F32)
  | egen
  | release
  | freset (phase : Word)
deriving DecidableEq, Repr

/-- The command on voice `v`. -/
def VoiceOp.on (v : VoiceNo) : VoiceOp → Instr
  | .sample x => .sample v x
  | .bqsamp x => .bqsamp v x
  | .egen => .egen v
  | .release => .release v
  | .freset phase => .freset v phase

/-- The samples filtered one after another on voice `v`, its cached index forgotten before each of them, so that the
coefficients are computed anew for every filtered sample (43_coupling R197). -/
def sampleForgetting (v : VoiceNo) : List F32 → State → Option State
  | [], s => some s
  | input :: rest, s =>
    let forgotten :=
      match s.voice? v with
      | none => s
      | some x => s.setVoice v { x with lastIdx := noIdx }
    match exec (.sample v input) forgotten with
    | .next t => sampleForgetting v rest t
    | .fault _ => none
    | .refused _ => none

/-! ## Rounding (00_scope R18) -/

/-- `r` is the rational `num / den` (`0 < den`), in units of 2^-149, rounded to the nearest binary32 value, ties to
even, with the sign of `num`; an infinity from 2^128 - 2^103 on. Says nothing of the sign of an exact zero. -/
def RoundsTo (r : F32) (num : Int) (den : Nat) : Prop :=
  (0 < num → fSign r = false) ∧ (num < 0 → fSign r = true) ∧
  if (2 ^ 25 - 1) * 2 ^ 252 * den ≤ num.natAbs then fIsInf r = true
  else
    fIsFinite r = true ∧
    ∀ c : F32, fIsFinite c = true →
      (fVal r * den - num).natAbs ≤ (fVal c * den - num).natAbs ∧
      ((fVal r * den - num).natAbs = (fVal c * den - num).natAbs → fVal c ≠ fVal r → fFrac r % 2 = 0)

end Sys2Proof.Machine
end

