-- ==== Sys2Proof/Certificates/Slice0/Obligations.lean ====
section
/-! DEFINITION. The statements for the provers. R<n> is a numbered rule of spec/, "log <n>" is
notes/assumptions/<n>.md. A next state is written out as a record, so that whatever a record does not name is
unchanged: every register, every voice context, the definition record, the flags and the capture. -/

section
open Sys2Proof Sys2Proof.Machine

/-! ## Encoding (30_encoding) -/

/-- R91, R95, R97: the word of a command, whatever its operands, decodes to that command. -/
def Obligations.EncodedCommandDecodesBack : Prop :=
  ∀ (nv : Nat) (i : Instr), i.wf nv = true → decode nv (encode i) = .ok i

/-- R97, R99: a word the decoder accepts is the word of the command it gives, and the command is well formed. -/
def Obligations.AcceptedWordIsItsEncoding : Prop :=
  ∀ (nv : Nat) (w : Cmd) (i : Instr), decode nv w = .ok i → encode i = w ∧ i.wf nv = true

/-- R97 steps 1 to 4, R98, R99, R102, R104, from a table of the 18 opcodes written out here: the opcode, the bits that
must be zero, whether `v` is used, and the selectors defined where `a` is one. -/
def Obligations.DecoderIsTotalAndOrdered : Prop :=
  let definition : List (BitVec 8) := [0x00, 0x01, 0x02, 0x03, 0x04, 0x05, 0x06, 0x07, 0x08, 0x09]
  let coefficients : List (BitVec 8) := [0x10, 0x11, 0x12, 0x13, 0x14]
  let progress : List (BitVec 8) := [0x18, 0x19, 0x1A, 0x1B, 0x1C, 0x20, 0x21, 0x22, 0x23, 0x24, 0x25, 0x26]
  let rows : List (BitVec 8 × Cmd × Bool × Option (List (BitVec 8))) :=
    [(0x01, 0x00FFFFFF00000000, false, none), (0x02, 0x00FFFFFFFFFFFFFF, false, none),
     (0x03, 0x00FFFFFF00000000, false, none), (0x04, 0x00FFFFFF00000000, false, none),
     (0x05, 0x00FF00FFFFFFFFFF, false, some definition),
     (0x10, 0x0000FFFFFFFFFFFF, true, none), (0x11, 0x0000FFFF00000000, true, none),
     (0x12, 0x0000FFFFFFFFFFFF, true, none), (0x13, 0x000000FFFFFFFFFF, true, none),
     (0x20, 0x0000FFFF00000000, true, none), (0x21, 0x0000FFFF00000000, true, none),
     (0x22, 0x0000FFFFFFFFFFFF, true, none),
     (0x30, 0x000000FF00000000, true, some (definition ++ coefficients)),
     (0x31, 0x000000FFFFFFFFFF, true, some (definition ++ coefficients ++ progress)),
     (0x38, 0x00FF00FF00000000, false, some definition), (0x39, 0x00FF00FFFFFFFFFF, false, some definition),
     (0x3A, 0x0000FFFFFFFFFFFF, true, none), (0x3B, 0x0000FFFFFFFFFFFF, true, none)]
  ∀ (nv : Nat) (w : Cmd),
    let op := w.extractLsb' 56 8
    let v := w.extractLsb' 48 8
    let a := w.extractLsb' 40 8
    ((∀ r ∈ rows, r.1 ≠ op) → decode nv w = .error .illegalOp) ∧
    ∀ r ∈ rows, r.1 = op →
      if w &&& r.2.1 ≠ 0 then decode nv w = .error .rsvdField
      else if (r.2.2.1 = true ∧ nv ≤ v.toNat) ∨ (op = 0x13 ∧ nv ≤ a.toNat) then decode nv w = .error .badVoice
      else if ∃ l, r.2.2.2 = some l ∧ a ∉ l then decode nv w = .error .badSelector
      else ∃ i, decode nv w = .ok i

/-- R96: a word belongs to no two rows of the opcode table, and one that belongs to a row with a must-be-zero bit set
is rejected with `RSVD_FIELD`. -/
def Obligations.WordBelongsToOneRow : Prop :=
  (∀ (w : Cmd) (i j : Instr), w &&& i.row.mask = i.row.pattern → w &&& j.row.mask = j.row.pattern →
    i.ctorIdx = j.ctorIdx) ∧
  ∀ (nv : Nat) (w : Cmd) (i : Instr), w &&& i.row.mask = i.row.pattern → w &&& i.row.mbz ≠ 0 →
    decode nv w = .error .rsvdField

/-- R107: the worked encodings. -/
def Obligations.WorkedEncodingsDecode : Prop :=
  decode 4 0x0100000000000010 = .ok (.tinit 16) ∧
  decode 4 0x0300000041000000 = .ok (.setsr 0x41000000) ∧
  decode 4 0x200000003F800000 = .ok (.sample 0 0x3F800000) ∧
  decode 4 0x20030000BF000000 = .ok (.sample 3 0xBF000000) ∧
  decode 4 0x1301000000000000 = .ok (.copy 1 0) ∧
  decode 4 0x3002010000000064 = .ok (.setatkrt 2 100) ∧
  decode 4 0x3100210000000000 = .ok (.getp 0 .lvl) ∧
  decode 4 0x380008003F800000 = .ok (.defwr .gain 0x3F800000) ∧
  decode 4 0x0200000000000000 = .ok .tdown

/-- R74: command words and responses laid out as bytes are little-endian. The last clause, that `decodeTableWord` reads
the 64 bits of a word of the opcode table as `decode` does with `NV = 4`, is the model's (log 16, DEDUCED). -/
def Obligations.LayoutIsLittleEndian : Prop :=
  (∀ w : Cmd, bytesOfCmd w = (List.range 8).map fun k => w.extractLsb' (8 * k) 8) ∧
  (∀ w : Cmd, cmdOfBytes (bytesOfCmd w) = some w) ∧
  (∀ r : Response, r.word.extractLsb' 0 32 = r.data ∧ r.word.extractLsb' 32 8 = r.status.code ∧
    r.word.extractLsb' 40 24 = 0) ∧
  ∀ (w : Cmd) (i : Instr), decodeTableWord 64 w.toNat = some i ↔ decode 4 w = .ok i

/-! ## The step (00_scope R5, R6; 10_state R33) -/

/-- R5, R33, R97: a step executes the command the next word decodes to, on the state whose port has moved past the
word, and does nothing else. That the words wait in a field of the state is the model's choice (log 1). -/
def Obligations.StepExecutesTheDecodedCommand : Prop :=
  ∀ (s : State) (w : Cmd) (rest : List Input) (i : Instr),
    s.legalParams = true → s.pending = .command w :: rest → decode s.nv w = .ok i →
    step s = exec i { s with pending := rest }

/-- The word placed by `withFetchWord` is the next one executed, for every well-formed command (log 1). -/
def Obligations.PlacedWordIsExecuted : Prop :=
  ∀ (s : State) (i : Instr), s.legalParams = true → i.wf s.nv = true →
    step (s.withFetchWord 64 (encode i).toNat) = exec i s

/-- R97, R253: a word that does not decode is consumed, answered with its cause, captured if it is the first rejection,
and changes nothing else. -/
def Obligations.StepRejectsAnUndecodableWord : Prop :=
  ∀ (s : State) (w : Cmd) (rest : List Input) (c : Status),
    s.legalParams = true → s.pending = .command w :: rest → decode s.nv w = .error c →
    step s = .next { s with
      pending := rest
      err := true
      errCause := if s.err then s.errCause else c
      errCmd := if s.err then s.errCmd else w
      responses := { status := c, data := 0 } :: s.responses }

/-- R5: with no command presented no state changes. -/
def Obligations.IdleBlockKeepsItsState : Prop :=
  ∀ s : State, s.legalParams = true → s.pending = [] → step s = .next s

/-- R280: hardware reset puts every register at its reset value. That it is an input of the port, which gives no
response, is the model's choice (log 17). -/
def Obligations.HardwareResetRestoresEveryRegister : Prop :=
  ∀ (s : State) (rest : List Input), s.legalParams = true → s.pending = .hardReset :: rest →
    step s = .next
      { params := s.params, tblRdy := false, err := false, tlen := 0, srate := 0, frqti := 0, cosoffs := 0
        errCause := .ok, errCmd := 0
        defs := { startLvl := 0, atkRt := 0, atkLvl := 0, decRt := 0, susLvl := 0, relRt := 0, relLvl := 0
                  curve := 0, gain := 0x3F800000, ftype := 0 }
        voices := List.replicate s.nv
          { startLvl := 0, atkRt := 0, atkLvl := 0, decRt := 0, susLvl := 0, relRt := 0, relLvl := 0
            curve := .lin, gain := 0, ftype := .lp
            taps := { in0 := 0, in1 := 0, in2 := 0, out1 := 0, out2 := 0 }
            x1 := 0, x2 := 0, y1 := 0, y2 := 0, lastIdx := 0xFFFFFFFF
            seg := .idle, lvl := 0, pos := 0, cnt := 0, tgt := 0, crv := .lin, coef := 0 }
        pending := rest, responses := s.responses }

/-- R68, read through the selectors of `GETG`, `DEFRD` and `GETP`. -/
def Obligations.ResetStateRegisters : Prop :=
  State.reset.tblRdy = false ∧ State.reset.err = false ∧
  (∀ g ∈ [GReg.status, .tlen, .srate, .frqti, .cosoffs, .errCause, .errCmdLo, .errCmdHi],
    State.reset.getGlobal g = 0) ∧
  State.reset.errCmd = 0 ∧
  (∀ k, State.reset.defs.get k = if k = .gain then 0x3F800000 else 0) ∧
  (∀ i, State.reset.wt i = none) ∧
  State.reset.voices.length = 4 ∧
  ∀ x ∈ State.reset.voices, ∀ p, x.get p = if p = .lastIdx then 0xFFFFFFFF else 0

/-- R11, R12, R14 and 93_implementation_defined U28: outside the constraints of the parameters the step is refused by
name. That the parameters stand in the state and are checked by the step is the model's choice (log 3, log 4). -/
def Obligations.IllegalParametersAreRefused : Prop :=
  ∀ s : State,
    ¬(1 ≤ s.voices.length ∧ s.voices.length ≤ 256 ∧ 2 ≤ s.params.log2Lmax ∧ s.params.log2Lmax ≤ 24 ∧
      fgt s.params.expk 0 = true) →
    step s = .refused .badParameters

/-- R33, R94: a command word presented is consumed and answered exactly once, a rejection with data 0, and the
parameters and the number of contexts stay. That responses are kept newest first is the model's choice (log 1). -/
def Obligations.EveryWordIsAnsweredOnce : Prop :=
  ∀ (s t : State) (w : Cmd) (rest : List Input), s.pending = .command w :: rest → step s = .next t →
    t.pending = rest ∧ t.params = s.params ∧ t.nv = s.nv ∧
    ∃ r, t.responses = r :: s.responses ∧ (r.status ≠ .ok → r.data = 0)

/-! ## Rejections (60_exceptions) -/

/-- R253, R254: whatever command is rejected, and for whatever cause, the response has data 0, the capture records the
cause and the whole word if it is the first rejection, and nothing else changes. -/
def Obligations.RejectedCommandIsPrecise : Prop :=
  ∀ (s t : State) (w : Cmd) (rest : List Input) (r : Response) (rs : List Response),
    s.pending = .command w :: rest → step s = .next t → t.responses = r :: rs → r.status ≠ .ok →
    t = { s with
      pending := rest
      err := true
      errCause := if s.err then s.errCause else r.status
      errCmd := if s.err then s.errCmd else w
      responses := { status := r.status, data := 0 } :: s.responses }

/-- R40, R41, R253: once a rejection is captured, nothing but hardware reset changes the capture, `TDOWN` included. -/
def Obligations.ErrorCaptureIsSticky : Prop :=
  ∀ s t : State, s.err = true → s.pending.head? ≠ some .hardReset → step s = .next t →
    t.err = true ∧ t.errCause = s.errCause ∧ t.errCmd = s.errCmd

/-- R252 step 5, R257: each command's own checks, in their order, with the cause of the first that fails. A command is
answered by the state of R253 and R254. The number of a table length that is legal is written as a power of two. -/
def Obligations.OwnChecksInOrder : Prop :=
  ∀ s : State,
    let rej (c : Status) (i : Instr) : Result := .next { s with
      err := true
      errCause := if s.err then s.errCause else c
      errCmd := if s.err then s.errCmd else encode i
      responses := { status := c, data := 0 } :: s.responses }
    let goodRate (r : F32) : Prop := fIsFinite r = true ∧ fgt r 0 = true
    let goodLength (n : Word) : Prop := ∃ k, 2 ≤ k ∧ k ≤ s.params.log2Lmax ∧ n.toInt = 2 ^ k
    let d := s.defs
    let badDefRate : Prop := d.atkRt.toInt < 0 ∨ d.decRt.toInt < 0 ∨ d.relRt.toInt < 0
    (∀ r, s.tblRdy = true → exec (.setsr r) s = rej .tblLocked (.setsr r)) ∧
    (∀ r, s.tblRdy = false → ¬goodRate r → exec (.setsr r) s = rej .cfgSrate (.setsr r)) ∧
    (∀ n, s.tblRdy = true → exec (.tinit n) s = rej .tblLocked (.tinit n)) ∧
    (∀ n, s.tblRdy = false → ¬goodLength n → exec (.tinit n) s = rej .cfgTableLen (.tinit n)) ∧
    (∀ n, s.tblRdy = false → goodLength n → ¬goodRate s.srate → exec (.tinit n) s = rej .cfgSrate (.tinit n)) ∧
    (∀ n, s.tblRdy = false → exec (.tlook n) s = rej .tblNotReady (.tlook n)) ∧
    (∀ n, s.tblRdy = true → (n.toInt < 0 ∨ s.tlen.toInt ≤ n.toInt) →
      exec (.tlook n) s = rej .tblIndex (.tlook n)) ∧
    ∀ (v : VoiceNo) (x : Voice), s.voice? v = some x →
      (s.tblRdy = false → exec (.finit v) s = rej .tblNotReady (.finit v)) ∧
      (s.tblRdy = true → badDefRate → exec (.finit v) s = rej .cfgRate (.finit v)) ∧
      (s.tblRdy = true → ¬badDefRate → (1 < d.curve.toNat ∨ d.ftype ≠ 0) →
        exec (.finit v) s = rej .badValue (.finit v)) ∧
      (badDefRate → exec (.setenvdef v) s = rej .cfgRate (.setenvdef v)) ∧
      (¬badDefRate → 1 < d.curve.toNat → exec (.setenvdef v) s = rej .badValue (.setenvdef v)) ∧
      (∀ input, s.tblRdy = false → exec (.sample v input) s = rej .tblNotReady (.sample v input)) ∧
      (∀ input, s.tblRdy = true → x.seg = .idle → exec (.sample v input) s = rej .notInit (.sample v input)) ∧
      (x.seg = .idle → exec (.egen v) s = rej .notInit (.egen v)) ∧
      (x.seg = .idle → exec (.release v) s = rej .notInit (.release v)) ∧
      (∀ ph, x.seg = .idle → exec (.freset v ph) s = rej .notInit (.freset v ph)) ∧
      (∀ w, w.toInt < 0 → exec (.setatkrt v w) s = rej .cfgRate (.setatkrt v w)) ∧
      (∀ w, w.toInt < 0 → exec (.setdecrt v w) s = rej .cfgRate (.setdecrt v w)) ∧
      (∀ w, w.toInt < 0 → exec (.setrelrt v w) s = rej .cfgRate (.setrelrt v w)) ∧
      (∀ w, 1 < w.toNat → exec (.settype v w) s = rej .badValue (.settype v w)) ∧
      (∀ w, w ≠ 0 → exec (.setftype v w) s = rej .badValue (.setftype v w))

/-- R258: on an initialised voice `SAMPLE`, `EGEN` and `BQSAMP` are carried out with status 0, whatever the values. -/
def Obligations.PerSamplePathIsNeverRejected : Prop :=
  ∀ (s : State) (v : VoiceNo) (x : Voice) (input : F32), s.Ok → s.voice? v = some x → x.seg ≠ .idle →
    ∀ i ∈ [Instr.sample v input, .egen v, .bqsamp v input],
      ∃ t d, exec i s = .next t ∧ t.responses = { status := .ok, data := d } :: s.responses

/-! ## The whole machine -/

/-- R66 with R36 to R41 and R61 to R64, gathered in `State.Ok`: every step from any state that satisfies it, reachable
or not, keeps it. -/
def Obligations.StepKeepsTheInvariant : Prop :=
  ∀ s t : State, s.Ok → step s = .next t → t.Ok

/-- R68, R280: hardware reset satisfies the invariant, for every legal choice of the parameters. -/
def Obligations.ResetSatisfiesTheInvariant : Prop :=
  ∀ (p : Params) (nv : Nat), (State.resetWith p nv).legalParams = true → (State.resetWith p nv).Ok

/-- R66, word for word: what holds in every state reachable from reset by any sequence of inputs. -/
def Obligations.ReachableVoicesAreConsistent : Prop :=
  ∀ (p : Params) (nv : Nat) (inputs : List Input) (n : Nat) (t : State),
    runSteps n { State.resetWith p nv with pending := inputs } = some t →
    ∀ x ∈ t.voices,
      (0 ≤ x.atkRt.toInt ∧ 0 ≤ x.decRt.toInt ∧ 0 ≤ x.relRt.toInt) ∧
      ((x.get (.defn .curve)).toNat ≤ 1 ∧ (x.get .crv).toNat ≤ 1 ∧ x.get (.defn .ftype) = 0 ∧
        (x.get .seg).toNat ≤ 5) ∧
      (x.seg = .attack ∨ x.seg = .decay ∨ x.seg = .release → 1 ≤ x.cnt.toNat ∧ x.pos.toNat < x.cnt.toNat) ∧
      (x.seg = .idle ∨ x.seg = .sustain ∨ x.seg = .done → x.pos = 0 ∧ x.cnt = 0) ∧
      (x.lastIdx.toInt = -1 ∨
        (t.tblRdy = true ∧ 0 ≤ x.lastIdx.toInt ∧ x.lastIdx.toInt < t.cosoffs.toInt)) ∧
      (0 ≤ x.lastIdx.toInt → t.coefLP x.lastIdx.toNat = some x.taps) ∧
      (x.seg ≠ .idle → t.tblRdy = true)

/-- R71, R102, R258, R259: from a state that satisfies the invariant the machine never stops; in particular `SAMPLE`
never reads outside the table. -/
def Obligations.NoStepStops : Prop :=
  ∀ s : State, s.Ok → ∃ t, step s = .next t

/-- R72, R127: while the table is valid no command but `TDOWN` changes it or what it was built from. -/
def Obligations.SessionConstantsStay : Prop :=
  ∀ (i : Instr) (s t : State), s.tblRdy = true → i ≠ .tdown → exec i s = .next t →
    t.tblRdy = true ∧ t.tlen = s.tlen ∧ t.cosoffs = s.cosoffs ∧ t.frqti = s.frqti ∧ t.srate = s.srate ∧
    ∀ k, t.wt k = s.wt k

/-- R31: no command but `TDOWN` touches a context it does not name. -/
def Obligations.UnnamedVoicesAreUntouched : Prop :=
  ∀ (i : Instr) (s t : State) (u : VoiceNo), i ≠ .tdown → exec i s = .next t → u ∉ i.voices →
    t.voice? u = s.voice? u

/-- R81: a command on voice `a` that does not write `DEF` changes neither the responses nor the end state of any
sequence of commands on voice `b`. -/
def Obligations.VoicesDoNotInterfere : Prop :=
  ∀ (a b : VoiceNo) (i : Instr) (is : List Instr) (s s' : State),
    a ≠ b → i.voices = [a] → i ≠ .getenvdef a → (∀ j ∈ is, j.voices ≠ [] ∧ ∀ u ∈ j.voices, u = b) →
    exec i s = .next s' →
    (execAll is s).isSome = (execAll is s').isSome ∧
    ∀ t t', execAll is s = some t → execAll is s' = some t' →
      t'.voice? b = t.voice? b ∧ t'.responses.take is.length = t.responses.take is.length

/-! ## Waveform table and globals (40_table) -/

/-- R121: `SETSR` of a finite rate above zero, before `TINIT`. -/
def Obligations.SetsrStoresTheRate : Prop :=
  ∀ (s : State) (rate : F32), s.tblRdy = false → fIsFinite rate = true → fgt rate 0 = true →
    exec (.setsr rate) s = .next { s with
      srate := rate
      responses := { status := .ok, data := 0 } :: s.responses }

/-- R122: `TINIT` of the length `2^k`, and R45: every entry of the table it makes valid. -/
def Obligations.TinitBuildsTheTable : Prop :=
  ∀ (s : State) (k : Nat), s.tblRdy = false → s.params.log2Lmax ≤ 24 → 2 ≤ k → k ≤ s.params.log2Lmax →
    fIsFinite s.srate = true → fgt s.srate 0 = true →
    let t : State := { s with
      tlen := BitVec.ofNat 32 (2 ^ k)
      cosoffs := BitVec.ofNat 32 (2 ^ (k - 2))
      frqti := fdiv (i2f (2 ^ (k - 1))) s.srate
      tblRdy := true
      responses := { status := .ok, data := 0 } :: s.responses }
    exec (.tinit (BitVec.ofNat 32 (2 ^ k))) s = .next t ∧
    ∀ i, i < 2 ^ k → t.wt i = some (sinRom s.params.sinRom (2 ^ k) i)

/-- R123: `TLOOK` in range answers the entry and changes nothing. -/
def Obligations.TlookReadsAnEntry : Prop :=
  ∀ (s : State) (index : Word), s.tblRdy = true → 0 ≤ index.toInt → index.toInt < s.tlen.toInt →
    exec (.tlook index) s = .next { s with
      responses :=
        { status := .ok, data := sinRom s.params.sinRom s.tlen.toNat index.toNat } :: s.responses }

/-- R124, R281: `TDOWN`, in any state, leaves the reset state with the three capture registers kept. -/
def Obligations.TdownResetsAllButTheCapture : Prop :=
  ∀ s : State,
    exec .tdown s = .next
      { params := s.params, tblRdy := false, err := s.err, tlen := 0, srate := 0, frqti := 0, cosoffs := 0
        errCause := s.errCause, errCmd := s.errCmd
        defs := { startLvl := 0, atkRt := 0, atkLvl := 0, decRt := 0, susLvl := 0, relRt := 0, relLvl := 0
                  curve := 0, gain := 0x3F800000, ftype := 0 }
        voices := List.replicate s.nv
          { startLvl := 0, atkRt := 0, atkLvl := 0, decRt := 0, susLvl := 0, relRt := 0, relLvl := 0
            curve := .lin, gain := 0, ftype := .lp
            taps := { in0 := 0, in1 := 0, in2 := 0, out1 := 0, out2 := 0 }
            x1 := 0, x2 := 0, y1 := 0, y2 := 0, lastIdx := 0xFFFFFFFF
            seg := .idle, lvl := 0, pos := 0, cnt := 0, tgt := 0, crv := .lin, coef := 0 }
        pending := s.pending, responses := { status := .ok, data := 0 } :: s.responses }

/-- R125, R35 to R43: the ten selectors, what each reads, and that reading changes nothing. -/
def Obligations.GetgReadsTheGlobals : Prop :=
  (∀ (nv : Nat),
    ∀ p ∈ [(0x00#8, GReg.status), (0x01, .tlen), (0x02, .srate), (0x03, .frqti), (0x04, .cosoffs), (0x05, .errCause),
      (0x06, .errCmdLo), (0x07, .errCmdHi), (0x08, .nvoices), (0x09, .lmaxr)],
      decode nv (0x05#8 ++ 0#8 ++ p.1 ++ 0#40) = .ok (.getg p.2)) ∧
  ∀ (s : State) (g : GReg),
    exec (.getg g) s = .next { s with
      responses :=
        { status := .ok
          data := match g with
            | .status => BitVec.ofNat 32 (s.err.toNat * 2 + s.tblRdy.toNat)
            | .tlen => s.tlen
            | .srate => s.srate
            | .frqti => s.frqti
            | .cosoffs => s.cosoffs
            | .errCause => BitVec.ofNat 32 s.errCause.code.toNat
            | .errCmdLo => BitVec.ofNat 32 (s.errCmd.toNat % 2 ^ 32)
            | .errCmdHi => BitVec.ofNat 32 (s.errCmd.toNat / 2 ^ 32)
            | .nvoices => BitVec.ofNat 32 s.voices.length
            | .lmaxr => BitVec.ofNat 32 (2 ^ s.params.log2Lmax) } :: s.responses }

/-! ## Voice lifecycle (43_coupling R192 to R194, 41_envelope R143, R151, R156) -/

/-- R192, R143, R156: `FINIT` from a legal record, zero-rate segments skipped. -/
def Obligations.FinitInitialisesTheVoice : Prop :=
  ∀ (s : State) (v : VoiceNo) (x : Voice), s.tblRdy = true → s.voice? v = some x →
    0 ≤ s.defs.atkRt.toInt → 0 ≤ s.defs.decRt.toInt → 0 ≤ s.defs.relRt.toInt → s.defs.curve.toNat ≤ 1 →
    s.defs.ftype = 0 →
    let d := s.defs
    let curve : Curve := if d.curve = 0 then .lin else .exp
    let coefOf (n : Word) : F32 :=
      if d.curve = 0 then 0
      else
        let c := fdiv s.params.expk (i2f n.toNat)
        if fgt c 0x3F800000 then 0x3F800000 else c
    let y : Voice :=
      { startLvl := d.startLvl, atkRt := d.atkRt, atkLvl := d.atkLvl, decRt := d.decRt, susLvl := d.susLvl
        relRt := d.relRt, relLvl := d.relLvl, curve := curve, gain := d.gain, ftype := .lp
        taps := { in0 := 0, in1 := 0, in2 := 0, out1 := 0, out2 := 0 }
        x1 := 0, x2 := 0, y1 := 0, y2 := 0, lastIdx := 0xFFFFFFFF
        seg := if d.atkRt ≠ 0 then .attack else if d.decRt ≠ 0 then .decay else .sustain
        lvl := if d.atkRt ≠ 0 then d.startLvl else if d.decRt ≠ 0 then d.atkLvl else d.susLvl
        pos := 0
        cnt := if d.atkRt ≠ 0 then d.atkRt else d.decRt
        tgt := if d.atkRt ≠ 0 then d.atkLvl else d.susLvl
        crv := if d.atkRt = 0 ∧ d.decRt = 0 then .lin else curve
        coef := if d.atkRt ≠ 0 then coefOf d.atkRt else if d.decRt ≠ 0 then coefOf d.decRt else 0 }
    exec (.finit v) s = .next { s with
      voices := s.voices.set v.toNat y
      responses := { status := .ok, data := 0 } :: s.responses }

/-- R193: `FRESET v, 0` clears the history and enters the attack from the start level, by the voice's own definition;
the definition, the coefficients and the cached index stay. -/
def Obligations.FresetRestartsTheEnvelope : Prop :=
  ∀ (s : State) (v : VoiceNo) (x : Voice), s.voice? v = some x → x.seg ≠ .idle →
    let coefOf (n : Word) : F32 :=
      match x.curve with
      | .lin => 0
      | .exp =>
        let c := fdiv s.params.expk (i2f n.toNat)
        if fgt c 0x3F800000 then 0x3F800000 else c
    let y : Voice := { x with
      x1 := 0, x2 := 0, y1 := 0, y2 := 0
      seg := if x.atkRt ≠ 0 then .attack else if x.decRt ≠ 0 then .decay else .sustain
      lvl := if x.atkRt ≠ 0 then x.startLvl else if x.decRt ≠ 0 then x.atkLvl else x.susLvl
      pos := 0
      cnt := if x.atkRt ≠ 0 then x.atkRt else x.decRt
      tgt := if x.atkRt ≠ 0 then x.atkLvl else x.susLvl
      crv := if x.atkRt = 0 ∧ x.decRt = 0 then .lin else x.curve
      coef := if x.atkRt ≠ 0 then coefOf x.atkRt else if x.decRt ≠ 0 then coefOf x.decRt else 0 }
    exec (.freset v 0) s = .next { s with
      voices := s.voices.set v.toNat y
      responses := { status := .ok, data := 0 } :: s.responses }

/-- R193: `FRESET v, ph` leaves what `FRESET v, 0` followed by `ph` times `EGEN v` leaves, and answers once. -/
def Obligations.FresetSkipsLikeEgen : Prop :=
  ∀ (s : State) (v : VoiceNo) (x : Voice) (ph : Word), s.voice? v = some x → x.seg ≠ .idle →
    ∃ t u, exec (.freset v ph) s = .next t ∧
      execAll (.freset v 0 :: List.replicate ph.toNat (.egen v)) s = some u ∧
      t = { u with responses := { status := .ok, data := 0 } :: s.responses }

/-- R193: no more than `ATK_RT + DEC_RT` steps matter, for then the envelope is in `SUSTAIN`. -/
def Obligations.FresetPhaseSaturates : Prop :=
  ∀ (s : State) (v : VoiceNo) (x : Voice) (ph : Word), s.voice? v = some x → x.seg ≠ .idle →
    x.atkRt.toNat + x.decRt.toNat < 2 ^ 32 →
    exec (.freset v ph) s =
      exec (.freset v (BitVec.ofNat 32 (min ph.toNat (x.atkRt.toNat + x.decRt.toNat)))) s

/-- R151: `RELEASE` enters the release segment from `ATTACK`, `DECAY` or `SUSTAIN`, the level kept unless the rate is
zero, and does nothing in `RELEASE` and `DONE`. -/
def Obligations.ReleaseEntersTheReleaseSegment : Prop :=
  ∀ (s : State) (v : VoiceNo) (x : Voice), s.voice? v = some x →
    let after (y : Voice) : Result := .next { s with
      voices := s.voices.set v.toNat y
      responses := { status := .ok, data := 0 } :: s.responses }
    (x.seg = .attack ∨ x.seg = .decay ∨ x.seg = .sustain → x.relRt ≠ 0 →
      exec (.release v) s = after { x with
        seg := .release, pos := 0, cnt := x.relRt, tgt := x.relLvl, crv := x.curve
        coef := match x.curve with
          | .lin => 0
          | .exp =>
            let c := fdiv s.params.expk (i2f x.relRt.toNat)
            if fgt c 0x3F800000 then 0x3F800000 else c }) ∧
    (x.seg = .attack ∨ x.seg = .decay ∨ x.seg = .sustain → x.relRt = 0 →
      exec (.release v) s = after { x with
        seg := .done, lvl := x.relLvl, pos := 0, cnt := 0, tgt := x.relLvl, crv := .lin, coef := 0 }) ∧
    (x.seg = .release ∨ x.seg = .done →
      exec (.release v) s = .next { s with responses := { status := .ok, data := 0 } :: s.responses })

/-- R152: the envelope step after `RELEASE` returns the level of the instant of release, bit for bit; by `EGEN`, that is
its response. -/
def Obligations.ReleaseIsContinuous : Prop :=
  ∀ (s : State) (v : VoiceNo) (x : Voice), s.voice? v = some x → x.seg ≠ .idle → 0 < x.relRt.toInt →
    ∃ t y u, exec (.release v) s = .next t ∧ t.voice? v = some y ∧ (envStep t.params.expk y).1 = x.lvl ∧
      exec (.egen v) t = .next u ∧
      u.responses = { status := .ok, data := x.lvl } :: { status := .ok, data := 0 } :: s.responses

/-- R194: `COPY` makes the destination equal to the source in every register; onto itself it changes nothing. -/
def Obligations.CopyCopiesEveryRegister : Prop :=
  ∀ (s : State) (vd vs : VoiceNo) (x : Voice), vd.toNat < s.nv → s.voice? vs = some x →
    exec (.copy vd vs) s = .next { s with
      voices := s.voices.set vd.toNat x
      responses := { status := .ok, data := 0 } :: s.responses }

/-- R176: after `COPY vd, vs` any sequence of the five commands gives on `vd` what it gives on `vs`, response for
response. -/
def Obligations.CopyRoundTrip : Prop :=
  ∀ (s t : State) (vd vs : VoiceNo) (ops : List VoiceOp), vd.toNat < s.nv → vs.toNat < s.nv →
    exec (.copy vd vs) s = .next t →
    (execAll (ops.map (·.on vd)) t).map (·.responses) = (execAll (ops.map (·.on vs)) t).map (·.responses)

/-! ## Envelope (41_envelope) -/

/-- R145 to R147, R150: `EGEN` answers the level before the step. In a hold state nothing moves; a ramp step with more
than one remaining moves the level by the formula of its curve. -/
def Obligations.EgenStepsTheEnvelope : Prop :=
  ∀ (s : State) (v : VoiceNo) (x : Voice), s.voice? v = some x →
    let after (y : Voice) : Result := .next { s with
      voices := s.voices.set v.toNat y
      responses := { status := .ok, data := x.lvl } :: s.responses }
    let rem := x.cnt - x.pos
    (x.seg = .sustain ∨ x.seg = .done → exec (.egen v) s = after x) ∧
    (x.seg = .attack ∨ x.seg = .decay ∨ x.seg = .release → rem ≠ 1 → x.crv = .lin →
      exec (.egen v) s = after { x with
        lvl := fadd x.lvl (fdiv (fsub x.tgt x.lvl) (i2f rem.toNat)), pos := x.pos + 1 }) ∧
    (x.seg = .attack ∨ x.seg = .decay ∨ x.seg = .release → rem ≠ 1 → x.crv = .exp →
      exec (.egen v) s = after { x with
        lvl := fadd x.lvl (fmul x.coef (fsub x.tgt x.lvl)), pos := x.pos + 1 })

/-- R149, R142, R143: the step with one remaining lands on the target's bits and enters the next segment; a decay of
rate zero is skipped. -/
def Obligations.EgenCompletesTheRamp : Prop :=
  ∀ (s : State) (v : VoiceNo) (x : Voice), s.voice? v = some x → x.cnt - x.pos = 1 →
    let after (y : Voice) : Result := .next { s with
      voices := s.voices.set v.toNat y
      responses := { status := .ok, data := x.lvl } :: s.responses }
    let hold (g : Seg) (l : F32) : Voice := { x with
      seg := g, lvl := l, pos := 0, cnt := 0, tgt := l, crv := .lin, coef := 0 }
    (x.seg = .attack → x.decRt ≠ 0 →
      exec (.egen v) s = after { x with
        seg := .decay, lvl := x.tgt, pos := 0, cnt := x.decRt, tgt := x.susLvl, crv := x.curve
        coef := match x.curve with
          | .lin => 0
          | .exp =>
            let c := fdiv s.params.expk (i2f x.decRt.toNat)
            if fgt c 0x3F800000 then 0x3F800000 else c }) ∧
    (x.seg = .attack → x.decRt = 0 → exec (.egen v) s = after (hold .sustain x.susLvl)) ∧
    (x.seg = .decay → exec (.egen v) s = after (hold .sustain x.tgt)) ∧
    (x.seg = .release → exec (.egen v) s = after (hold .done x.tgt))

/-- R145: a ramp entered with `CNT = N` stays in its segment for `N - 1` steps, and the `N`-th leaves it with the level
at the target (or, when a decay of rate zero is skipped, at the sustain level). -/
def Obligations.RampLastsItsCount : Prop :=
  ∀ (s : State) (v : VoiceNo) (x : Voice), s.voice? v = some x →
    x.seg = .attack ∨ x.seg = .decay ∨ x.seg = .release → x.pos = 0 → x.cnt ≠ 0 →
    (∀ k, k < x.cnt.toNat → ∃ t y, execAll (List.replicate k (.egen v)) s = some t ∧ t.voice? v = some y ∧
      y.seg = x.seg ∧ y.pos.toNat = k ∧ y.cnt = x.cnt ∧ y.tgt = x.tgt ∧ y.crv = x.crv ∧ y.coef = x.coef) ∧
    ∃ t y, execAll (List.replicate x.cnt.toNat (.egen v)) s = some t ∧ t.voice? v = some y ∧
      (x.seg = .release → y.seg = .done ∧ y.lvl = x.tgt) ∧
      (x.seg = .decay → y.seg = .sustain ∧ y.lvl = x.tgt) ∧
      (x.seg = .attack → x.decRt ≠ 0 → y.seg = .decay ∧ y.lvl = x.tgt ∧ y.pos = 0 ∧ y.cnt = x.decRt) ∧
      (x.seg = .attack → x.decRt = 0 → y.seg = .sustain ∧ y.lvl = x.susLvl)

/-! ## Biquad (42_biquad) and coupling (43_coupling) -/

/-- R171 run by `BQSAMP` (R172): the five products and the four sums in their order, the shifted history, and the
canonical NaN as the one NaN it gives. -/
def Obligations.BqsampRunsTheDifferenceEquation : Prop :=
  ∀ (s : State) (v : VoiceNo) (x : Voice) (input : F32), s.voice? v = some x →
    let t0 := fmul x.taps.in0 input
    let t1 := fmul x.taps.in1 x.x1
    let t2 := fmul x.taps.in2 x.x2
    let t3 := fmul x.taps.out1 x.y1
    let t4 := fmul x.taps.out2 x.y2
    let y := fsub (fsub (fadd (fadd t0 t1) t2) t3) t4
    exec (.bqsamp v input) s = .next { s with
      voices := s.voices.set v.toNat { x with x2 := x.x1, x1 := input, y2 := x.y1, y1 := y }
      responses := { status := .ok, data := y } :: s.responses } ∧
    (fIsNaN y = true → y = 0x7FC00000)

/-- R174, R289: with a NaN in `Y1`, every output of the core is the canonical NaN, whatever the coefficients and the
inputs, and the NaN stays. -/
def Obligations.NaNStaysInTheHistory : Prop :=
  ∀ (s : State) (v : VoiceNo) (x : Voice) (inputs : List F32), s.voice? v = some x → fIsNaN x.y1 = true →
    ∃ t y, execAll (inputs.map (.bqsamp v ·)) s = some t ∧ t.voice? v = some y ∧ fIsNaN y.y1 = true ∧
      t.responses = List.replicate inputs.length { status := .ok, data := 0x7FC00000 } ++ s.responses

/-- R182, R184, R191: outside the range, NaN and infinite products included, the input's bits are answered and only the
envelope has advanced, as by `EGEN`. -/
def Obligations.SampleBypassesOutOfRange : Prop :=
  ∀ (s : State) (v : VoiceNo) (x : Voice) (input : F32), s.tblRdy = true → s.voice? v = some x → x.seg ≠ .idle →
    ¬(fge (fmul x.lvl s.frqti) 0 = true ∧ flt (fmul x.lvl s.frqti) (i2f s.cosoffs.toInt) = true) →
    exec (.sample v input) s = .next { s with
      voices := s.voices.set v.toNat (envAdvance s.params.expk x)
      responses := { status := .ok, data := input } :: s.responses }

/-- R181 to R189: in range and with an index that is not the cached one, the coefficients of R186 are computed from the
two table entries, cached under the index, and used. -/
def Obligations.SampleRecomputesOnANewIndex : Prop :=
  ∀ (s : State) (v : VoiceNo) (x : Voice) (input : F32), s.Ok → s.voice? v = some x → x.seg ≠ .idle →
    let p := fmul x.lvl s.frqti
    let idx := floorIdx p
    fge p 0 = true → flt p (i2f s.cosoffs.toInt) = true → x.lastIdx ≠ BitVec.ofNat 32 idx →
    let sinVal := sinRom s.params.sinRom s.tlen.toNat idx
    let cosVal := sinRom s.params.sinRom s.tlen.toNat (idx + s.cosoffs.toNat)
    let c := fdiv cosVal sinVal
    let c2 := fmul c c
    let cSqrt2 := fmul 0x3FB504F3 c
    let denom := fdiv 0x3F800000 (fadd (fadd c2 cSqrt2) 0x3F800000)
    let in1 := fmul 0x40000000 denom
    let out1 := fmul (fmul 0x40000000 (fsub 0x3F800000 c2)) denom
    let out2 := fmul (fadd (fsub c2 cSqrt2) 0x3F800000) denom
    let y := fsub (fsub (fadd (fadd (fmul denom input) (fmul in1 x.x1)) (fmul denom x.x2)) (fmul out1 x.y1))
      (fmul out2 x.y2)
    exec (.sample v input) s = .next { s with
      voices := s.voices.set v.toNat { envAdvance s.params.expk x with
        taps := { in0 := denom, in1 := in1, in2 := denom, out1 := out1, out2 := out2 }
        lastIdx := BitVec.ofNat 32 idx
        x2 := x.x1, x1 := input, y2 := x.y1, y1 := y }
      responses := { status := .ok, data := y } :: s.responses }

/-- R188, R189: in range and with the cached index, the coefficients held are used and no coefficient is written. -/
def Obligations.SampleReusesTheCachedIndex : Prop :=
  ∀ (s : State) (v : VoiceNo) (x : Voice) (input : F32), s.tblRdy = true → s.voice? v = some x → x.seg ≠ .idle →
    let p := fmul x.lvl s.frqti
    fge p 0 = true → flt p (i2f s.cosoffs.toInt) = true → x.lastIdx = BitVec.ofNat 32 (floorIdx p) →
    let y := fsub (fsub (fadd (fadd (fmul x.taps.in0 input) (fmul x.taps.in1 x.x1)) (fmul x.taps.in2 x.x2))
      (fmul x.taps.out1 x.y1)) (fmul x.taps.out2 x.y2)
    exec (.sample v input) s = .next { s with
      voices := s.voices.set v.toNat { envAdvance s.params.expk x with
        x2 := x.x1, x1 := input, y2 := x.y1, y1 := y }
      responses := { status := .ok, data := y } :: s.responses }

/-- R184, R23, R191: the range check passes exactly for a product that is neither a NaN nor infinite and whose floor
lies in `0 .. COSOFFS-1`; the index is that floor; a product equal to `COSOFFS` fails. Values are in units of 2^-149. -/
def Obligations.RangeCheckIsTheFloorTest : Prop :=
  ∀ (s : State) (p : F32), s.Ok → s.tblRdy = true →
    (s.inRange p = true ↔ fIsFinite p = true ∧ 0 ≤ fVal p ∧ fVal p / 2 ^ 149 < s.cosoffs.toInt) ∧
    (s.inRange p = true → (floorIdx p : Int) = fVal p / 2 ^ 149) ∧
    s.inRange (i2f s.cosoffs.toInt) = false

/-- R196, R288, for the default `SINROM`: index 0 gives the coefficients `(0, 0, 0, NaN, NaN)`, and the sample's output
is the canonical NaN, which enters the history. -/
def Obligations.IndexZeroGivesNaN : Prop :=
  ∀ (s : State) (v : VoiceNo) (x : Voice) (input : F32), s.Ok → s.params.sinRom = .rounded → s.voice? v = some x →
    x.seg ≠ .idle → s.inRange (fmul x.lvl s.frqti) = true → floorIdx (fmul x.lvl s.frqti) = 0 →
    exec (.sample v input) s = .next { s with
      voices := s.voices.set v.toNat { envAdvance s.params.expk x with
        taps := { in0 := 0, in1 := 0, in2 := 0, out1 := 0x7FC00000, out2 := 0x7FC00000 }
        lastIdx := 0
        x2 := x.x1, x1 := input, y2 := x.y1, y1 := 0x7FC00000 }
      responses := { status := .ok, data := 0x7FC00000 } :: s.responses }

/-- R197, R190: a block that recomputed the coefficients for every filtered sample would give the same responses. -/
def Obligations.CacheChangesNoOutput : Prop :=
  ∀ (s : State) (v : VoiceNo) (inputs : List F32), s.Ok →
    (execAll (inputs.map (.sample v ·)) s).map (·.responses) = (sampleForgetting v inputs s).map (·.responses)

/-- R190, R188: on a voice that holds its level in range, the first sample caches the level's index and every later one
leaves the coefficients, the index and the level as they are and finds the index cached. -/
def Obligations.HeldLevelComputesOnce : Prop :=
  ∀ (s : State) (v : VoiceNo) (x : Voice) (first : F32) (later : List F32), s.Ok → s.voice? v = some x →
    x.seg = .sustain ∨ x.seg = .done → s.inRange (fmul x.lvl s.frqti) = true →
    ∃ t y u z, exec (.sample v first) s = .next t ∧ t.voice? v = some y ∧
      y.lastIdx = BitVec.ofNat 32 (floorIdx (fmul x.lvl s.frqti)) ∧
      execAll (later.map (.sample v ·)) t = some u ∧ u.voice? v = some z ∧
      z.taps = y.taps ∧ z.lastIdx = y.lastIdx ∧ z.lvl = x.lvl ∧
      u.refresh (floorIdx (fmul z.lvl u.frqti)) z = some z

/-! ## Parameters and the definition record (44_params) -/

/-- R212 to R222: each definition `SET...` writes its one register, in any state of the voice; nothing of the running
segment moves (R154). -/
def Obligations.DefinitionSettersWriteOneRegister : Prop :=
  ∀ (s : State) (v : VoiceNo) (x : Voice) (w : Word), s.voice? v = some x →
    let after (y : Voice) : Result := .next { s with
      voices := s.voices.set v.toNat y
      responses := { status := .ok, data := 0 } :: s.responses }
    exec (.setstart v w) s = after { x with startLvl := w } ∧
    (0 ≤ w.toInt → exec (.setatkrt v w) s = after { x with atkRt := w }) ∧
    exec (.setatklvl v w) s = after { x with atkLvl := w } ∧
    (0 ≤ w.toInt → exec (.setdecrt v w) s = after { x with decRt := w }) ∧
    exec (.setsuslvl v w) s = after { x with susLvl := w } ∧
    (0 ≤ w.toInt → exec (.setrelrt v w) s = after { x with relRt := w }) ∧
    exec (.setrellvl v w) s = after { x with relLvl := w } ∧
    exec (.settype v 0) s = after { x with curve := .lin } ∧
    exec (.settype v 1) s = after { x with curve := .exp } ∧
    exec (.setgain v w) s = after { x with gain := w } ∧
    exec (.setftype v 0) s = after { x with ftype := .lp }

/-- R212, R223 to R227: each coefficient `SET...` writes its register and invalidates the cached index (R85). -/
def Obligations.CoefficientSettersInvalidateTheCache : Prop :=
  ∀ (s : State) (v : VoiceNo) (x : Voice) (w : Word), s.voice? v = some x →
    let after (c : Taps) : Result := .next { s with
      voices := s.voices.set v.toNat { x with taps := c, lastIdx := 0xFFFFFFFF }
      responses := { status := .ok, data := 0 } :: s.responses }
    exec (.setin0 v w) s = after { x.taps with in0 := w } ∧
    exec (.setin1 v w) s = after { x.taps with in1 := w } ∧
    exec (.setin2 v w) s = after { x.taps with in2 := w } ∧
    exec (.setout1 v w) s = after { x.taps with out1 := w } ∧
    exec (.setout2 v w) s = after { x.taps with out2 := w }

/-- R228, R46 to R64: the 27 selectors, what each reads (R32), and that reading changes nothing (R77). -/
def Obligations.GetpReadsTheVoice : Prop :=
  ∀ (s : State) (v : VoiceNo) (x : Voice), s.voice? v = some x →
    ∀ r ∈ [(0x00#8, VReg.defn .startLvl, x.startLvl), (0x01, .defn .atkRt, x.atkRt), (0x02, .defn .atkLvl, x.atkLvl),
      (0x03, .defn .decRt, x.decRt), (0x04, .defn .susLvl, x.susLvl), (0x05, .defn .relRt, x.relRt),
      (0x06, .defn .relLvl, x.relLvl),
      (0x07, .defn .curve, match x.curve with | .lin => 0 | .exp => 1),
      (0x08, .defn .gain, x.gain), (0x09, .defn .ftype, 0),
      (0x10, .tap .in0, x.taps.in0), (0x11, .tap .in1, x.taps.in1), (0x12, .tap .in2, x.taps.in2),
      (0x13, .tap .out1, x.taps.out1), (0x14, .tap .out2, x.taps.out2),
      (0x18, .x1, x.x1), (0x19, .x2, x.x2), (0x1A, .y1, x.y1), (0x1B, .y2, x.y2), (0x1C, .lastIdx, x.lastIdx),
      (0x20, .seg, match x.seg with
        | .idle => 0 | .attack => 1 | .decay => 2 | .sustain => 3 | .release => 4 | .done => 5),
      (0x21, .lvl, x.lvl), (0x22, .pos, x.pos), (0x23, .cnt, x.cnt), (0x24, .tgt, x.tgt),
      (0x25, .crv, match x.crv with | .lin => 0 | .exp => 1), (0x26, .coef, x.coef)],
      decode s.nv (0x31#8 ++ v ++ r.1 ++ 0#40) = .ok (.getp v r.2.1) ∧
      exec (.getp v r.2.1) s = .next { s with
        responses := { status := .ok, data := r.2.2 } :: s.responses }

/-- R230, R231: `DEFWR` stores any word unchecked in its one word of the record, `DEFRD` reads a word and changes
nothing, and a word reads back as last written. -/
def Obligations.DefinitionRecordReadsBack : Prop :=
  ∀ (s : State) (w : Word),
    let after (d : DefRecord) : Result := .next { s with
      defs := d
      responses := { status := .ok, data := 0 } :: s.responses }
    let d := s.defs
    (exec (.defwr .startLvl w) s = after { d with startLvl := w } ∧ exec (.defwr .atkRt w) s = after { d with atkRt := w } ∧
      exec (.defwr .atkLvl w) s = after { d with atkLvl := w } ∧ exec (.defwr .decRt w) s = after { d with decRt := w } ∧
      exec (.defwr .susLvl w) s = after { d with susLvl := w } ∧ exec (.defwr .relRt w) s = after { d with relRt := w } ∧
      exec (.defwr .relLvl w) s = after { d with relLvl := w } ∧ exec (.defwr .curve w) s = after { d with curve := w } ∧
      exec (.defwr .gain w) s = after { d with gain := w } ∧ exec (.defwr .ftype w) s = after { d with ftype := w }) ∧
    (∀ r ∈ [(DefWord.startLvl, d.startLvl), (.atkRt, d.atkRt), (.atkLvl, d.atkLvl), (.decRt, d.decRt),
        (.susLvl, d.susLvl), (.relRt, d.relRt), (.relLvl, d.relLvl), (.curve, d.curve), (.gain, d.gain),
        (.ftype, d.ftype)],
      exec (.defrd r.1) s = .next { s with responses := { status := .ok, data := r.2 } :: s.responses }) ∧
    ∀ (k j : DefWord) (t u : State), exec (.defrd j) s = .next t →
      execAll [.defwr k w, .defrd j] s = some u →
      (u.responses.head?).map (·.data) = if j = k then some w else (t.responses.head?).map (·.data)

/-- R232, R233: `GETENVDEF` takes the eight words of the envelope definition out of a voice, `SETENVDEF` puts eight
legal words into it; the rest of the record and of the voice stays. -/
def Obligations.EnvelopeDefinitionMoves : Prop :=
  ∀ (s : State) (v : VoiceNo) (x : Voice), s.voice? v = some x →
    exec (.getenvdef v) s = .next { s with
      defs := { s.defs with
        startLvl := x.startLvl, atkRt := x.atkRt, atkLvl := x.atkLvl, decRt := x.decRt, susLvl := x.susLvl
        relRt := x.relRt, relLvl := x.relLvl
        curve := match x.curve with | .lin => 0 | .exp => 1 }
      responses := { status := .ok, data := 0 } :: s.responses } ∧
    (0 ≤ s.defs.atkRt.toInt → 0 ≤ s.defs.decRt.toInt → 0 ≤ s.defs.relRt.toInt → s.defs.curve.toNat ≤ 1 →
      exec (.setenvdef v) s = .next { s with
        voices := s.voices.set v.toNat { x with
          startLvl := s.defs.startLvl, atkRt := s.defs.atkRt, atkLvl := s.defs.atkLvl, decRt := s.defs.decRt
          susLvl := s.defs.susLvl, relRt := s.defs.relRt, relLvl := s.defs.relLvl
          curve := if s.defs.curve = 0 then .lin else .exp }
        responses := { status := .ok, data := 0 } :: s.responses })

/-- R234: `GETENVDEF v` then `SETENVDEF v` is accepted and changes no voice register, and from `vs` to `vd` the pair
makes the eight definition registers equal. -/
def Obligations.EnvelopeDefinitionRoundTrip : Prop :=
  ∀ s : State, s.Ok →
    (∀ v : VoiceNo, v.toNat < s.nv → ∃ t, execAll [.getenvdef v, .setenvdef v] s = some t ∧ t.voices = s.voices ∧
      t.responses = { status := .ok, data := 0 } :: { status := .ok, data := 0 } :: s.responses) ∧
    ∀ (vs vd : VoiceNo) (x : Voice), s.voice? vs = some x → vd.toNat < s.nv →
      ∃ t y, execAll [.getenvdef vs, .setenvdef vd] s = some t ∧ t.voice? vd = some y ∧
        y.startLvl = x.startLvl ∧ y.atkRt = x.atkRt ∧ y.atkLvl = x.atkLvl ∧ y.decRt = x.decRt ∧
        y.susLvl = x.susLvl ∧ y.relRt = x.relRt ∧ y.relLvl = x.relLvl ∧ y.curve = x.curve

/-! ## Arithmetic (00_scope R17 to R23) and the sine table (40_table) -/

/-- R18 on finite operands: each primitive gives the exact result rounded once to the nearest binary32 value, ties to
even, with the sign R18 gives an exact zero. -/
def Obligations.PrimitivesRoundToNearestEven : Prop :=
  (∀ a b : F32, fIsFinite a = true → fIsFinite b = true →
    RoundsTo (fadd a b) (fVal a + fVal b) 1 ∧
    (fVal a + fVal b = 0 → fadd a b = if fSign a && fSign b then 0x80000000 else 0) ∧
    fsub a b = fadd a (b ^^^ 0x80000000) ∧
    RoundsTo (fmul a b) (fVal a * fVal b) (2 ^ 149) ∧
    (fVal a * fVal b = 0 → fmul a b = if fSign a != fSign b then 0x80000000 else 0) ∧
    (fVal b ≠ 0 →
      RoundsTo (fdiv a b) (fVal a * 2 ^ 149 * (fVal b).sign) (fVal b).natAbs ∧
      (fVal a = 0 → fdiv a b = if fSign a != fSign b then 0x80000000 else 0))) ∧
  ∀ n : Int, RoundsTo (i2f n) (n * 2 ^ 149) 1 ∧ (n = 0 → i2f n = 0)

/-- R18, R19: the special cases, and that every NaN a primitive returns is the canonical one. -/
def Obligations.SpecialValuesOfArithmetic : Prop :=
  (∀ op ∈ [fadd, fsub, fmul, fdiv], ∀ a b : F32,
    (fIsNaN a = true ∨ fIsNaN b = true → op a b = 0x7FC00000) ∧
    (fIsNaN (op a b) = true → op a b = 0x7FC00000)) ∧
  ∀ a b : F32, fIsNaN a = false → fIsNaN b = false →
    let inf (neg : Bool) : F32 := if neg then 0xFF800000 else 0x7F800000
    let zero (neg : Bool) : F32 := if neg then 0x80000000 else 0
    let sign := fSign a != fSign b
    (fIsInf a = true → fadd a b = if fIsInf b = true ∧ fSign a ≠ fSign b then 0x7FC00000 else a) ∧
    (fIsInf a = false → fIsInf b = true → fadd a b = b) ∧
    (fIsInf a = true ∨ fIsInf b = true →
      fmul a b = if fVal a = 0 ∨ fVal b = 0 then 0x7FC00000 else inf sign) ∧
    (fIsInf a = true → fdiv a b = if fIsInf b = true then 0x7FC00000 else inf sign) ∧
    (fIsInf a = false → fIsInf b = true → fdiv a b = zero sign) ∧
    (fIsInf a = false → fVal b = 0 → fdiv a b = if fVal a = 0 then 0x7FC00000 else inf sign)

/-- R120, R126, for the default `SINROM` and every legal length: the quadrant points, the sign, the two reflections, the
agreement of tables of different lengths, and the cosine view as the sine read backwards. -/
def Obligations.SineTableSymmetries : Prop :=
  ∀ k : Nat, 2 ≤ k → k ≤ 24 →
    let wt (i : Nat) : F32 := sinRom .rounded (2 ^ k) i
    let quarter := 2 ^ (k - 2)
    wt 0 = 0 ∧ wt quarter = 0x3F800000 ∧ wt (2 * quarter) = 0 ∧ wt (3 * quarter) = 0xBF800000 ∧
    (∀ i, 0 < i → i < 2 * quarter → fgt (wt i) 0 = true) ∧
    (∀ i, i ≤ 2 * quarter → wt (2 * quarter - i) = wt i) ∧
    (∀ i, 0 < i → i < 2 * quarter → wt (2 * quarter + i) = wt i ^^^ 0x80000000) ∧
    (∀ i, i < 2 ^ k → sinRom .rounded (2 ^ (k + 1)) (2 * i) = wt i) ∧
    ∀ i, i < quarter → wt (i + quarter) = wt (quarter - i)

end
end

