-- ==== Sys2Proof/Laws/Float.lean ====
section
/-! SUPPORT. The fields of a packed value, the integer a rounding gives, and conversions that are exact. -/

namespace Sys2Proof.Machine

/-! ## Packing and fields -/

theorem fPack_toNat {neg : Bool} {m : Nat} (h : m < 2 ^ 31) :
    (fPack neg m).toNat = (if neg then 2 ^ 31 else 0) + m := by
  unfold fPack
  cases neg <;> simp <;> omega

theorem fExpField_eq (x : F32) : fExpField x = x.toNat / 2 ^ 23 % 2 ^ 8 := by
  simp [fExpField, BitVec.extractLsb'_toNat, Nat.shiftRight_eq_div_pow]

theorem fFrac_eq (x : F32) : fFrac x = x.toNat % 2 ^ 23 := by
  simp [fFrac, BitVec.extractLsb'_toNat]

theorem fSign_eq (x : F32) : fSign x = decide (2 ^ 31 ≤ x.toNat) := by
  have := x.isLt
  simp only [fSign, BitVec.getLsbD, Nat.testBit_eq_decide_div_mod_eq]
  congr 1
  apply propext
  omega

theorem fExpField_fPack {neg : Bool} {m : Nat} (h : m < 2 ^ 31) : fExpField (fPack neg m) = m / 2 ^ 23 := by
  rw [fExpField_eq, fPack_toNat h]
  cases neg <;> simp <;> omega

theorem fFrac_fPack {neg : Bool} {m : Nat} (h : m < 2 ^ 31) : fFrac (fPack neg m) = m % 2 ^ 23 := by
  rw [fFrac_eq, fPack_toNat h]
  cases neg <;> simp <;> omega

theorem fSign_fPack {neg : Bool} {m : Nat} (h : m < 2 ^ 31) : fSign (fPack neg m) = neg := by
  rw [fSign_eq, fPack_toNat h]
  cases neg <;> simp <;> omega

/-- The magnitude of a packed value whose exponent field counts `k` and whose significand is `q`, also when the
significand has grown to the next power of two. -/
theorem fMag_fPack {neg : Bool} {k q : Nat} (hq : (k = 0 ∧ q < 2 ^ 23) ∨ (2 ^ 23 ≤ q ∧ q ≤ 2 ^ 24))
    (h : k * 2 ^ 23 + q < 2 ^ 31) : fMag (fPack neg (k * 2 ^ 23 + q)) = q * 2 ^ k := by
  unfold fMag
  rw [fExpField_fPack h, fFrac_fPack h]
  rcases hq with ⟨rfl, hq⟩ | ⟨h1, h2⟩
  · rw [if_pos (by omega)]; simp; omega
  · rcases Nat.lt_or_eq_of_le h2 with h2 | rfl
    · rw [if_neg (by omega), show (k * 2 ^ 23 + q) / 2 ^ 23 - 1 = k by omega,
        show 2 ^ 23 + (k * 2 ^ 23 + q) % 2 ^ 23 = q by omega]
    · rw [if_neg (by omega), show (k * 2 ^ 23 + 2 ^ 24) / 2 ^ 23 - 1 = k + 1 by omega,
        show 2 ^ 23 + (k * 2 ^ 23 + 2 ^ 24) % 2 ^ 23 = 2 ^ 23 by omega, Nat.pow_succ]
      omega

/-- A value is packed from its sign and its low 31 bits. -/
theorem fPack_fields (x : F32) : fPack (fSign x) (x.toNat % 2 ^ 31) = x := by
  apply BitVec.eq_of_toNat_eq
  have := x.isLt
  rw [fPack_toNat (by omega), fSign_eq]
  by_cases h : 2 ^ 31 ≤ x.toNat
  · rw [decide_eq_true h, if_pos rfl]; omega
  · rw [decide_eq_false h, if_neg Bool.false_ne_true]; omega

/-! ## Rounding to an integer -/

/-- The rounded quotient is the floor or one above it, whichever is nearer, the even one when neither is. -/
theorem roundNearestEven_cases (n d : Nat) :
    (roundNearestEven n d = n / d ∧ (2 * (n % d) < d ∨ (2 * (n % d) = d ∧ n / d % 2 = 0) ∨ d = 0)) ∨
    (roundNearestEven n d = n / d + 1 ∧ (d < 2 * (n % d) ∨ (2 * (n % d) = d ∧ n / d % 2 = 1))) := by
  unfold roundNearestEven
  dsimp only
  split
  · exact .inl ⟨rfl, .inl ‹_›⟩
  split
  · exact .inr ⟨rfl, .inl ‹_›⟩
  split
  · exact .inl ⟨rfl, .inr (.inl ⟨by omega, ‹_›⟩)⟩
  · exact .inr ⟨rfl, .inr ⟨by omega, by omega⟩⟩

/-- A quotient without remainder is not changed by rounding. -/
theorem roundNearestEven_mul (q : Nat) {d : Nat} (hd : 0 < d) : roundNearestEven (q * d) d = q := by
  unfold roundNearestEven
  simp [Nat.mul_mod_left, Nat.mul_div_cancel _ hd, hd]

theorem roundMag_le (n d : Nat) : roundMag n d ≤ 0x7F800000 := Nat.min_le_right _ _

/-- No rounded value is a NaN. -/
theorem fIsNaN_fPack_roundMag (neg : Bool) (n d : Nat) : fIsNaN (fPack neg (roundMag n d)) = false := by
  have h := roundMag_le n d
  have h' : roundMag n d < 2 ^ 31 := by omega
  unfold fIsNaN
  rw [fExpField_fPack h', fFrac_fPack h']
  simp
  omega

/-- The significand a rounding works with lies in the binade its exponent names, its upper end included. -/
theorem roundMag_significand {n d : Nat} (hd : 0 < d) :
    let k := Nat.log2 (n / d) - 23
    let q := roundNearestEven n (d * 2 ^ k)
    (k = 0 ∧ q < 2 ^ 23) ∨ (2 ^ 23 ≤ q ∧ q ≤ 2 ^ 24) := by
  intro k q
  have hk : 0 < 2 ^ k := Nat.two_pow_pos k
  have hD : 0 < d * 2 ^ k := Nat.mul_pos hd hk
  have hdiv : n / (d * 2 ^ k) = n / d / 2 ^ k := (Nat.div_div_eq_div_mul ..).symm
  have hq : q = n / (d * 2 ^ k) ∨ q = n / (d * 2 ^ k) + 1 := by
    rcases roundNearestEven_cases n (d * 2 ^ k) with h | h
    · exact .inl h.1
    · exact .inr h.1
  by_cases h0 : n / d = 0
  · have : n / (d * 2 ^ k) = 0 := by rw [hdiv, h0, Nat.zero_div]
    have hk0 : k = 0 := by show Nat.log2 (n / d) - 23 = 0; rw [h0]; rfl
    exact .inl ⟨hk0, by omega⟩
  have hlo : 2 ^ Nat.log2 (n / d) ≤ n / d := Nat.log2_self_le h0
  have hhi : n / d < 2 ^ (Nat.log2 (n / d) + 1) := Nat.lt_log2_self
  by_cases hs : Nat.log2 (n / d) < 23
  · have hk0 : k = 0 := by show Nat.log2 (n / d) - 23 = 0; omega
    have : n / d < 2 ^ 23 := Nat.lt_of_lt_of_le hhi (Nat.pow_le_pow_right (by decide) (by omega))
    have : n / (d * 2 ^ k) < 2 ^ 23 := by rw [hk0, Nat.pow_zero, Nat.mul_one]; exact this
    rcases Nat.lt_or_ge q (2 ^ 23) with h | h
    · exact .inl ⟨hk0, h⟩
    · exact .inr ⟨h, by omega⟩
  · have e1 : 2 ^ Nat.log2 (n / d) = 2 ^ 23 * 2 ^ k := by
      rw [← Nat.pow_add]; congr 1; show _ = 23 + (Nat.log2 (n / d) - 23); omega
    have e2 : 2 ^ (Nat.log2 (n / d) + 1) = 2 ^ 24 * 2 ^ k := by rw [Nat.pow_succ, e1]; omega
    have l1 : 2 ^ 23 ≤ n / (d * 2 ^ k) := by
      rw [hdiv, Nat.le_div_iff_mul_le hk]; rw [e1] at hlo; exact hlo
    have l2 : n / (d * 2 ^ k) < 2 ^ 24 := by
      rw [hdiv, Nat.div_lt_iff_lt_mul hk]; rw [e2] at hhi; exact hhi
    exact .inr ⟨by omega, by omega⟩

/-! ## Conversions of small integers -/

/-- An integer below 2^24 is converted exactly. -/
theorem roundMag_small {n : Nat} (h0 : 0 < n) (h : n < 2 ^ 24) :
    ∃ k q, roundMag (n * 2 ^ 149) 1 = k * 2 ^ 23 + q ∧ 2 ^ 23 ≤ q ∧ q < 2 ^ 24 ∧ q * 2 ^ k = n * 2 ^ 149 ∧ k ≤ 149 := by
  have hn : n ≠ 0 := by omega
  have hl : Nat.log2 n < 24 := (Nat.log2_lt hn).2 h
  have hlog : Nat.log2 (n * 2 ^ 149 / 1) = Nat.log2 n + 149 := by
    rw [Nat.div_one]
    apply (Nat.log2_eq_iff (by have := Nat.two_pow_pos 149; exact Nat.mul_ne_zero hn (by omega))).2
    have a := Nat.log2_self_le hn
    have b := @Nat.lt_log2_self n
    rw [show Nat.log2 n + 149 + 1 = (Nat.log2 n + 1) + 149 by omega, Nat.pow_add 2 (Nat.log2 n) 149,
      Nat.pow_add 2 (Nat.log2 n + 1) 149]
    exact ⟨Nat.mul_le_mul_right _ a, Nat.mul_lt_mul_of_pos_right b (Nat.two_pow_pos 149)⟩
  have hpow : n * 2 ^ 149 = n * 2 ^ (23 - Nat.log2 n) * 2 ^ (Nat.log2 n + 126) := by
    rw [Nat.mul_assoc, ← Nat.pow_add, show 23 - Nat.log2 n + (Nat.log2 n + 126) = 149 by omega]
  have hq1 : 2 ^ 23 ≤ n * 2 ^ (23 - Nat.log2 n) := by
    have a := Nat.mul_le_mul_right (2 ^ (23 - Nat.log2 n)) (Nat.log2_self_le hn)
    rwa [← Nat.pow_add, show Nat.log2 n + (23 - Nat.log2 n) = 23 by omega] at a
  have hq2 : n * 2 ^ (23 - Nat.log2 n) < 2 ^ 24 := by
    have a := Nat.mul_lt_mul_of_pos_right (@Nat.lt_log2_self n) (Nat.two_pow_pos (23 - Nat.log2 n))
    rwa [← Nat.pow_add, show Nat.log2 n + 1 + (23 - Nat.log2 n) = 24 by omega] at a
  refine ⟨Nat.log2 n + 126, n * 2 ^ (23 - Nat.log2 n), ?_, hq1, hq2, hpow.symm, by omega⟩
  unfold roundMag
  dsimp only
  rw [hlog, show Nat.log2 n + 149 - 23 = Nat.log2 n + 126 by omega, Nat.one_mul]
  have e : roundNearestEven (n * 2 ^ 149) (2 ^ (Nat.log2 n + 126)) = n * 2 ^ (23 - Nat.log2 n) := by
    rw [hpow]; exact roundNearestEven_mul _ (Nat.two_pow_pos _)
  rw [e]
  exact Nat.min_eq_left (by omega)

/-- `i2f` of an integer of magnitude below 2^24 is that integer. -/
theorem fVal_i2f {n : Nat} (h : n < 2 ^ 24) : fVal (i2f n) = n * 2 ^ 149 ∧ fIsFinite (i2f n) = true := by
  rcases Nat.eq_zero_or_pos n with rfl | h0
  · exact ⟨rfl, rfl⟩
  obtain ⟨k, q, e, h1, h2, h3, h4⟩ := roundMag_small h0 h
  have hne : ¬((n : Int) * 2 ^ 149 = 0) := by omega
  have hnat : ((n : Int) * 2 ^ 149).natAbs = n * 2 ^ 149 := by omega
  have hpos : decide ((n : Int) * 2 ^ 149 < 0) = false := decide_eq_false (by omega)
  have he : i2f n = fPack false (k * 2 ^ 23 + q) := by
    unfold i2f fOfUnits
    rw [if_neg hne, hnat, hpos, e]
  have hb : k * 2 ^ 23 + q < 2 ^ 31 := by omega
  constructor
  · rw [he, fVal, fSign_fPack hb, fMag_fPack (.inr ⟨h1, by omega⟩) hb, h3]
    simp
  · rw [he, fIsFinite, fExpField_fPack hb]
    simp
    omega

/-! ## Comparisons -/

theorem fIsNaN_of_finite {x : F32} (h : fIsFinite x = true) : fIsNaN x = false := by
  unfold fIsFinite at h; unfold fIsNaN; simp_all

/-- A value that is not finite and not a NaN is an infinity, whose magnitude is 2^23 times 2^254 units. -/
theorem fMag_of_not_finite {x : F32} (h : fIsFinite x = false) (hn : fIsNaN x = false) : fMag x = 2 ^ 23 * 2 ^ 254 := by
  unfold fIsFinite at h; unfold fIsNaN at hn; unfold fMag
  simp_all

/-- A finite magnitude lies below that of an infinity. -/
theorem fMag_lt_of_finite {x : F32} (h : fIsFinite x = true) : fMag x < 2 ^ 23 * 2 ^ 254 := by
  have h8 : fExpField x < 2 ^ 8 := (x.extractLsb' 23 8).isLt
  have h23 : fFrac x < 2 ^ 23 := (x.extractLsb' 0 23).isLt
  have hne : fExpField x ≠ 255 := by simpa [fIsFinite] using h
  unfold fMag
  split
  · omega
  · calc (2 ^ 23 + fFrac x) * 2 ^ (fExpField x - 1)
        ≤ (2 ^ 24 - 1) * 2 ^ 253 :=
          Nat.mul_le_mul (by omega) (Nat.pow_le_pow_right (by decide) (by omega))
      _ < 2 ^ 23 * 2 ^ 254 := by decide

end Sys2Proof.Machine
end

