-- ==== Sys2Proof/Laws/State.lean ====
section
/-! SUPPORT. One lemma per field per update of the state and of a voice context, so that no proof unfolds a record
update. -/

namespace Sys2Proof.Machine


/-! ## `respond` -/

@[simp] theorem respond_params (d : Word) (s : State) :
    (respond d s).params = s.params := rfl

@[simp] theorem respond_tblRdy (d : Word) (s : State) :
    (respond d s).tblRdy = s.tblRdy := rfl

@[simp] theorem respond_err (d : Word) (s : State) :
    (respond d s).err = s.err := rfl

@[simp] theorem respond_tlen (d : Word) (s : State) :
    (respond d s).tlen = s.tlen := rfl

@[simp] theorem respond_srate (d : Word) (s : State) :
    (respond d s).srate = s.srate := rfl

@[simp] theorem respond_frqti (d : Word) (s : State) :
    (respond d s).frqti = s.frqti := rfl

@[simp] theorem respond_cosoffs (d : Word) (s : State) :
    (respond d s).cosoffs = s.cosoffs := rfl

@[simp] theorem respond_errCause (d : Word) (s : State) :
    (respond d s).errCause = s.errCause := rfl

@[simp] theorem respond_errCmd (d : Word) (s : State) :
    (respond d s).errCmd = s.errCmd := rfl

@[simp] theorem respond_defs (d : Word) (s : State) :
    (respond d s).defs = s.defs := rfl

@[simp] theorem respond_voices (d : Word) (s : State) :
    (respond d s).voices = s.voices := rfl

@[simp] theorem respond_pending (d : Word) (s : State) :
    (respond d s).pending = s.pending := rfl

@[simp] theorem respond_responses (d : Word) (s : State) :
    (respond d s).responses = { status := .ok, data := d } :: s.responses := rfl


/-! ## `State.capture` -/

@[simp] theorem State.capture_params (c : Status) (w : Cmd) (s : State) :
    (s.capture c w).params = s.params := by
  unfold State.capture; split <;> simp_all

@[simp] theorem State.capture_tblRdy (c : Status) (w : Cmd) (s : State) :
    (s.capture c w).tblRdy = s.tblRdy := by
  unfold State.capture; split <;> simp_all

@[simp] theorem State.capture_err (c : Status) (w : Cmd) (s : State) :
    (s.capture c w).err = true := by
  unfold State.capture; split <;> simp_all

@[simp] theorem State.capture_tlen (c : Status) (w : Cmd) (s : State) :
    (s.capture c w).tlen = s.tlen := by
  unfold State.capture; split <;> simp_all

@[simp] theorem State.capture_srate (c : Status) (w : Cmd) (s : State) :
    (s.capture c w).srate = s.srate := by
  unfold State.capture; split <;> simp_all

@[simp] theorem State.capture_frqti (c : Status) (w : Cmd) (s : State) :
    (s.capture c w).frqti = s.frqti := by
  unfold State.capture; split <;> simp_all

@[simp] theorem State.capture_cosoffs (c : Status) (w : Cmd) (s : State) :
    (s.capture c w).cosoffs = s.cosoffs := by
  unfold State.capture; split <;> simp_all

@[simp] theorem State.capture_errCause (c : Status) (w : Cmd) (s : State) :
    (s.capture c w).errCause = if s.err then s.errCause else c := by
  unfold State.capture; split <;> simp_all

@[simp] theorem State.capture_errCmd (c : Status) (w : Cmd) (s : State) :
    (s.capture c w).errCmd = if s.err then s.errCmd else w := by
  unfold State.capture; split <;> simp_all

@[simp] theorem State.capture_defs (c : Status) (w : Cmd) (s : State) :
    (s.capture c w).defs = s.defs := by
  unfold State.capture; split <;> simp_all

@[simp] theorem State.capture_voices (c : Status) (w : Cmd) (s : State) :
    (s.capture c w).voices = s.voices := by
  unfold State.capture; split <;> simp_all

@[simp] theorem State.capture_pending (c : Status) (w : Cmd) (s : State) :
    (s.capture c w).pending = s.pending := by
  unfold State.capture; split <;> simp_all

@[simp] theorem State.capture_responses (c : Status) (w : Cmd) (s : State) :
    (s.capture c w).responses = s.responses := by
  unfold State.capture; split <;> simp_all


/-! ## `reject` -/

@[simp] theorem reject_params (c : Status) (w : Cmd) (s : State) :
    (reject c w s).params = s.params := by
  simp [reject]

@[simp] theorem reject_tblRdy (c : Status) (w : Cmd) (s : State) :
    (reject c w s).tblRdy = s.tblRdy := by
  simp [reject]

@[simp] theorem reject_err (c : Status) (w : Cmd) (s : State) :
    (reject c w s).err = true := by
  simp [reject]

@[simp] theorem reject_tlen (c : Status) (w : Cmd) (s : State) :
    (reject c w s).tlen = s.tlen := by
  simp [reject]

@[simp] theorem reject_srate (c : Status) (w : Cmd) (s : State) :
    (reject c w s).srate = s.srate := by
  simp [reject]

@[simp] theorem reject_frqti (c : Status) (w : Cmd) (s : State) :
    (reject c w s).frqti = s.frqti := by
  simp [reject]

@[simp] theorem reject_cosoffs (c : Status) (w : Cmd) (s : State) :
    (reject c w s).cosoffs = s.cosoffs := by
  simp [reject]

@[simp] theorem reject_errCause (c : Status) (w : Cmd) (s : State) :
    (reject c w s).errCause = if s.err then s.errCause else c := by
  simp [reject]

@[simp] theorem reject_errCmd (c : Status) (w : Cmd) (s : State) :
    (reject c w s).errCmd = if s.err then s.errCmd else w := by
  simp [reject]

@[simp] theorem reject_defs (c : Status) (w : Cmd) (s : State) :
    (reject c w s).defs = s.defs := by
  simp [reject]

@[simp] theorem reject_voices (c : Status) (w : Cmd) (s : State) :
    (reject c w s).voices = s.voices := by
  simp [reject]

@[simp] theorem reject_pending (c : Status) (w : Cmd) (s : State) :
    (reject c w s).pending = s.pending := by
  simp [reject]

@[simp] theorem reject_responses (c : Status) (w : Cmd) (s : State) :
    (reject c w s).responses = { status := c, data := 0 } :: s.responses := by
  simp [reject]


/-! ## `State.setVoice` -/

@[simp] theorem State.setVoice_params (v : VoiceNo) (x : Voice) (s : State) :
    (s.setVoice v x).params = s.params := rfl

@[simp] theorem State.setVoice_tblRdy (v : VoiceNo) (x : Voice) (s : State) :
    (s.setVoice v x).tblRdy = s.tblRdy := rfl

@[simp] theorem State.setVoice_err (v : VoiceNo) (x : Voice) (s : State) :
    (s.setVoice v x).err = s.err := rfl

@[simp] theorem State.setVoice_tlen (v : VoiceNo) (x : Voice) (s : State) :
    (s.setVoice v x).tlen = s.tlen := rfl

@[simp] theorem State.setVoice_srate (v : VoiceNo) (x : Voice) (s : State) :
    (s.setVoice v x).srate = s.srate := rfl

@[simp] theorem State.setVoice_frqti (v : VoiceNo) (x : Voice) (s : State) :
    (s.setVoice v x).frqti = s.frqti := rfl

@[simp] theorem State.setVoice_cosoffs (v : VoiceNo) (x : Voice) (s : State) :
    (s.setVoice v x).cosoffs = s.cosoffs := rfl

@[simp] theorem State.setVoice_errCause (v : VoiceNo) (x : Voice) (s : State) :
    (s.setVoice v x).errCause = s.errCause := rfl

@[simp] theorem State.setVoice_errCmd (v : VoiceNo) (x : Voice) (s : State) :
    (s.setVoice v x).errCmd = s.errCmd := rfl

@[simp] theorem State.setVoice_defs (v : VoiceNo) (x : Voice) (s : State) :
    (s.setVoice v x).defs = s.defs := rfl

@[simp] theorem State.setVoice_voices (v : VoiceNo) (x : Voice) (s : State) :
    (s.setVoice v x).voices = s.voices.set v.toNat x := rfl

@[simp] theorem State.setVoice_pending (v : VoiceNo) (x : Voice) (s : State) :
    (s.setVoice v x).pending = s.pending := rfl

@[simp] theorem State.setVoice_responses (v : VoiceNo) (x : Voice) (s : State) :
    (s.setVoice v x).responses = s.responses := rfl


/-! ## `buildTable` -/

@[simp] theorem buildTable_params (len : Word) (s : State) :
    (buildTable len s).params = s.params := rfl

@[simp] theorem buildTable_tblRdy (len : Word) (s : State) :
    (buildTable len s).tblRdy = true := rfl

@[simp] theorem buildTable_err (len : Word) (s : State) :
    (buildTable len s).err = s.err := rfl

@[simp] theorem buildTable_tlen (len : Word) (s : State) :
    (buildTable len s).tlen = len := rfl

@[simp] theorem buildTable_srate (len : Word) (s : State) :
    (buildTable len s).srate = s.srate := rfl

@[simp] theorem buildTable_frqti (len : Word) (s : State) :
    (buildTable len s).frqti = fdiv (i2f (zext32 len / 2 : Nat)) s.srate := rfl

@[simp] theorem buildTable_cosoffs (len : Word) (s : State) :
    (buildTable len s).cosoffs = BitVec.ofNat 32 (zext32 len / 4) := rfl

@[simp] theorem buildTable_errCause (len : Word) (s : State) :
    (buildTable len s).errCause = s.errCause := rfl

@[simp] theorem buildTable_errCmd (len : Word) (s : State) :
    (buildTable len s).errCmd = s.errCmd := rfl

@[simp] theorem buildTable_defs (len : Word) (s : State) :
    (buildTable len s).defs = s.defs := rfl

@[simp] theorem buildTable_voices (len : Word) (s : State) :
    (buildTable len s).voices = s.voices := rfl

@[simp] theorem buildTable_pending (len : Word) (s : State) :
    (buildTable len s).pending = s.pending := rfl

@[simp] theorem buildTable_responses (len : Word) (s : State) :
    (buildTable len s).responses = s.responses := rfl


/-! ## `hardwareReset` -/

@[simp] theorem hardwareReset_params (s : State) :
    (hardwareReset s).params = s.params := rfl

@[simp] theorem hardwareReset_tblRdy (s : State) :
    (hardwareReset s).tblRdy = false := rfl

@[simp] theorem hardwareReset_err (s : State) :
    (hardwareReset s).err = false := rfl

@[simp] theorem hardwareReset_tlen (s : State) :
    (hardwareReset s).tlen = 0 := rfl

@[simp] theorem hardwareReset_srate (s : State) :
    (hardwareReset s).srate = 0 := rfl

@[simp] theorem hardwareReset_frqti (s : State) :
    (hardwareReset s).frqti = 0 := rfl

@[simp] theorem hardwareReset_cosoffs (s : State) :
    (hardwareReset s).cosoffs = 0 := rfl

@[simp] theorem hardwareReset_errCause (s : State) :
    (hardwareReset s).errCause = .ok := rfl

@[simp] theorem hardwareReset_errCmd (s : State) :
    (hardwareReset s).errCmd = 0 := rfl

@[simp] theorem hardwareReset_defs (s : State) :
    (hardwareReset s).defs = DefRecord.reset := rfl

@[simp] theorem hardwareReset_voices (s : State) :
    (hardwareReset s).voices = List.replicate s.nv Voice.reset := rfl

@[simp] theorem hardwareReset_pending (s : State) :
    (hardwareReset s).pending = s.pending := rfl

@[simp] theorem hardwareReset_responses (s : State) :
    (hardwareReset s).responses = s.responses := rfl


/-! ## `tearDown` -/

@[simp] theorem tearDown_params (s : State) :
    (tearDown s).params = s.params := rfl

@[simp] theorem tearDown_tblRdy (s : State) :
    (tearDown s).tblRdy = false := rfl

@[simp] theorem tearDown_err (s : State) :
    (tearDown s).err = s.err := rfl

@[simp] theorem tearDown_tlen (s : State) :
    (tearDown s).tlen = 0 := rfl

@[simp] theorem tearDown_srate (s : State) :
    (tearDown s).srate = 0 := rfl

@[simp] theorem tearDown_frqti (s : State) :
    (tearDown s).frqti = 0 := rfl

@[simp] theorem tearDown_cosoffs (s : State) :
    (tearDown s).cosoffs = 0 := rfl

@[simp] theorem tearDown_errCause (s : State) :
    (tearDown s).errCause = s.errCause := rfl

@[simp] theorem tearDown_errCmd (s : State) :
    (tearDown s).errCmd = s.errCmd := rfl

@[simp] theorem tearDown_defs (s : State) :
    (tearDown s).defs = DefRecord.reset := rfl

@[simp] theorem tearDown_voices (s : State) :
    (tearDown s).voices = List.replicate s.nv Voice.reset := rfl

@[simp] theorem tearDown_pending (s : State) :
    (tearDown s).pending = s.pending := rfl

@[simp] theorem tearDown_responses (s : State) :
    (tearDown s).responses = s.responses := rfl


/-! ## `Voice.setTap` -/

@[simp] theorem Voice.setTap_startLvl (t : Tap) (w : F32) (x : Voice) :
    (x.setTap t w).startLvl = x.startLvl := rfl

@[simp] theorem Voice.setTap_atkRt (t : Tap) (w : F32) (x : Voice) :
    (x.setTap t w).atkRt = x.atkRt := rfl

@[simp] theorem Voice.setTap_atkLvl (t : Tap) (w : F32) (x : Voice) :
    (x.setTap t w).atkLvl = x.atkLvl := rfl

@[simp] theorem Voice.setTap_decRt (t : Tap) (w : F32) (x : Voice) :
    (x.setTap t w).decRt = x.decRt := rfl

@[simp] theorem Voice.setTap_susLvl (t : Tap) (w : F32) (x : Voice) :
    (x.setTap t w).susLvl = x.susLvl := rfl

@[simp] theorem Voice.setTap_relRt (t : Tap) (w : F32) (x : Voice) :
    (x.setTap t w).relRt = x.relRt := rfl

@[simp] theorem Voice.setTap_relLvl (t : Tap) (w : F32) (x : Voice) :
    (x.setTap t w).relLvl = x.relLvl := rfl

@[simp] theorem Voice.setTap_curve (t : Tap) (w : F32) (x : Voice) :
    (x.setTap t w).curve = x.curve := rfl

@[simp] theorem Voice.setTap_gain (t : Tap) (w : F32) (x : Voice) :
    (x.setTap t w).gain = x.gain := rfl

@[simp] theorem Voice.setTap_ftype (t : Tap) (w : F32) (x : Voice) :
    (x.setTap t w).ftype = x.ftype := rfl

@[simp] theorem Voice.setTap_taps (t : Tap) (w : F32) (x : Voice) :
    (x.setTap t w).taps = x.taps.set t w := rfl

@[simp] theorem Voice.setTap_x1 (t : Tap) (w : F32) (x : Voice) :
    (x.setTap t w).x1 = x.x1 := rfl

@[simp] theorem Voice.setTap_x2 (t : Tap) (w : F32) (x : Voice) :
    (x.setTap t w).x2 = x.x2 := rfl

@[simp] theorem Voice.setTap_y1 (t : Tap) (w : F32) (x : Voice) :
    (x.setTap t w).y1 = x.y1 := rfl

@[simp] theorem Voice.setTap_y2 (t : Tap) (w : F32) (x : Voice) :
    (x.setTap t w).y2 = x.y2 := rfl

@[simp] theorem Voice.setTap_lastIdx (t : Tap) (w : F32) (x : Voice) :
    (x.setTap t w).lastIdx = noIdx := rfl

@[simp] theorem Voice.setTap_seg (t : Tap) (w : F32) (x : Voice) :
    (x.setTap t w).seg = x.seg := rfl

@[simp] theorem Voice.setTap_lvl (t : Tap) (w : F32) (x : Voice) :
    (x.setTap t w).lvl = x.lvl := rfl

@[simp] theorem Voice.setTap_pos (t : Tap) (w : F32) (x : Voice) :
    (x.setTap t w).pos = x.pos := rfl

@[simp] theorem Voice.setTap_cnt (t : Tap) (w : F32) (x : Voice) :
    (x.setTap t w).cnt = x.cnt := rfl

@[simp] theorem Voice.setTap_tgt (t : Tap) (w : F32) (x : Voice) :
    (x.setTap t w).tgt = x.tgt := rfl

@[simp] theorem Voice.setTap_crv (t : Tap) (w : F32) (x : Voice) :
    (x.setTap t w).crv = x.crv := rfl

@[simp] theorem Voice.setTap_coef (t : Tap) (w : F32) (x : Voice) :
    (x.setTap t w).coef = x.coef := rfl


/-! ## `Voice.setDef` -/

@[simp] theorem Voice.setDef_taps (k : DefWord) (w : Word) (x : Voice) :
    (x.setDef k w).taps = x.taps := by cases k <;> rfl

@[simp] theorem Voice.setDef_x1 (k : DefWord) (w : Word) (x : Voice) :
    (x.setDef k w).x1 = x.x1 := by cases k <;> rfl

@[simp] theorem Voice.setDef_x2 (k : DefWord) (w : Word) (x : Voice) :
    (x.setDef k w).x2 = x.x2 := by cases k <;> rfl

@[simp] theorem Voice.setDef_y1 (k : DefWord) (w : Word) (x : Voice) :
    (x.setDef k w).y1 = x.y1 := by cases k <;> rfl

@[simp] theorem Voice.setDef_y2 (k : DefWord) (w : Word) (x : Voice) :
    (x.setDef k w).y2 = x.y2 := by cases k <;> rfl

@[simp] theorem Voice.setDef_lastIdx (k : DefWord) (w : Word) (x : Voice) :
    (x.setDef k w).lastIdx = x.lastIdx := by cases k <;> rfl

@[simp] theorem Voice.setDef_seg (k : DefWord) (w : Word) (x : Voice) :
    (x.setDef k w).seg = x.seg := by cases k <;> rfl

@[simp] theorem Voice.setDef_lvl (k : DefWord) (w : Word) (x : Voice) :
    (x.setDef k w).lvl = x.lvl := by cases k <;> rfl

@[simp] theorem Voice.setDef_pos (k : DefWord) (w : Word) (x : Voice) :
    (x.setDef k w).pos = x.pos := by cases k <;> rfl

@[simp] theorem Voice.setDef_cnt (k : DefWord) (w : Word) (x : Voice) :
    (x.setDef k w).cnt = x.cnt := by cases k <;> rfl

@[simp] theorem Voice.setDef_tgt (k : DefWord) (w : Word) (x : Voice) :
    (x.setDef k w).tgt = x.tgt := by cases k <;> rfl

@[simp] theorem Voice.setDef_crv (k : DefWord) (w : Word) (x : Voice) :
    (x.setDef k w).crv = x.crv := by cases k <;> rfl

@[simp] theorem Voice.setDef_coef (k : DefWord) (w : Word) (x : Voice) :
    (x.setDef k w).coef = x.coef := by cases k <;> rfl


/-! ## `Voice.loadEnvDef` -/

@[simp] theorem Voice.loadEnvDef_startLvl (d : DefRecord) (x : Voice) :
    (x.loadEnvDef d).startLvl = d.startLvl := rfl

@[simp] theorem Voice.loadEnvDef_atkRt (d : DefRecord) (x : Voice) :
    (x.loadEnvDef d).atkRt = d.atkRt := rfl

@[simp] theorem Voice.loadEnvDef_atkLvl (d : DefRecord) (x : Voice) :
    (x.loadEnvDef d).atkLvl = d.atkLvl := rfl

@[simp] theorem Voice.loadEnvDef_decRt (d : DefRecord) (x : Voice) :
    (x.loadEnvDef d).decRt = d.decRt := rfl

@[simp] theorem Voice.loadEnvDef_susLvl (d : DefRecord) (x : Voice) :
    (x.loadEnvDef d).susLvl = d.susLvl := rfl

@[simp] theorem Voice.loadEnvDef_relRt (d : DefRecord) (x : Voice) :
    (x.loadEnvDef d).relRt = d.relRt := rfl

@[simp] theorem Voice.loadEnvDef_relLvl (d : DefRecord) (x : Voice) :
    (x.loadEnvDef d).relLvl = d.relLvl := rfl

@[simp] theorem Voice.loadEnvDef_curve (d : DefRecord) (x : Voice) :
    (x.loadEnvDef d).curve = Curve.ofWord d.curve := rfl

@[simp] theorem Voice.loadEnvDef_gain (d : DefRecord) (x : Voice) :
    (x.loadEnvDef d).gain = x.gain := rfl

@[simp] theorem Voice.loadEnvDef_ftype (d : DefRecord) (x : Voice) :
    (x.loadEnvDef d).ftype = x.ftype := rfl

@[simp] theorem Voice.loadEnvDef_taps (d : DefRecord) (x : Voice) :
    (x.loadEnvDef d).taps = x.taps := rfl

@[simp] theorem Voice.loadEnvDef_x1 (d : DefRecord) (x : Voice) :
    (x.loadEnvDef d).x1 = x.x1 := rfl

@[simp] theorem Voice.loadEnvDef_x2 (d : DefRecord) (x : Voice) :
    (x.loadEnvDef d).x2 = x.x2 := rfl

@[simp] theorem Voice.loadEnvDef_y1 (d : DefRecord) (x : Voice) :
    (x.loadEnvDef d).y1 = x.y1 := rfl

@[simp] theorem Voice.loadEnvDef_y2 (d : DefRecord) (x : Voice) :
    (x.loadEnvDef d).y2 = x.y2 := rfl

@[simp] theorem Voice.loadEnvDef_lastIdx (d : DefRecord) (x : Voice) :
    (x.loadEnvDef d).lastIdx = x.lastIdx := rfl

@[simp] theorem Voice.loadEnvDef_seg (d : DefRecord) (x : Voice) :
    (x.loadEnvDef d).seg = x.seg := rfl

@[simp] theorem Voice.loadEnvDef_lvl (d : DefRecord) (x : Voice) :
    (x.loadEnvDef d).lvl = x.lvl := rfl

@[simp] theorem Voice.loadEnvDef_pos (d : DefRecord) (x : Voice) :
    (x.loadEnvDef d).pos = x.pos := rfl

@[simp] theorem Voice.loadEnvDef_cnt (d : DefRecord) (x : Voice) :
    (x.loadEnvDef d).cnt = x.cnt := rfl

@[simp] theorem Voice.loadEnvDef_tgt (d : DefRecord) (x : Voice) :
    (x.loadEnvDef d).tgt = x.tgt := rfl

@[simp] theorem Voice.loadEnvDef_crv (d : DefRecord) (x : Voice) :
    (x.loadEnvDef d).crv = x.crv := rfl

@[simp] theorem Voice.loadEnvDef_coef (d : DefRecord) (x : Voice) :
    (x.loadEnvDef d).coef = x.coef := rfl


/-! ## `Voice.loadDef` -/

@[simp] theorem Voice.loadDef_startLvl (d : DefRecord) (x : Voice) :
    (x.loadDef d).startLvl = d.startLvl := rfl

@[simp] theorem Voice.loadDef_atkRt (d : DefRecord) (x : Voice) :
    (x.loadDef d).atkRt = d.atkRt := rfl

@[simp] theorem Voice.loadDef_atkLvl (d : DefRecord) (x : Voice) :
    (x.loadDef d).atkLvl = d.atkLvl := rfl

@[simp] theorem Voice.loadDef_decRt (d : DefRecord) (x : Voice) :
    (x.loadDef d).decRt = d.decRt := rfl

@[simp] theorem Voice.loadDef_susLvl (d : DefRecord) (x : Voice) :
    (x.loadDef d).susLvl = d.susLvl := rfl

@[simp] theorem Voice.loadDef_relRt (d : DefRecord) (x : Voice) :
    (x.loadDef d).relRt = d.relRt := rfl

@[simp] theorem Voice.loadDef_relLvl (d : DefRecord) (x : Voice) :
    (x.loadDef d).relLvl = d.relLvl := rfl

@[simp] theorem Voice.loadDef_curve (d : DefRecord) (x : Voice) :
    (x.loadDef d).curve = Curve.ofWord d.curve := rfl

@[simp] theorem Voice.loadDef_gain (d : DefRecord) (x : Voice) :
    (x.loadDef d).gain = d.gain := rfl

@[simp] theorem Voice.loadDef_ftype (d : DefRecord) (x : Voice) :
    (x.loadDef d).ftype = FilterType.ofWord d.ftype := rfl

@[simp] theorem Voice.loadDef_taps (d : DefRecord) (x : Voice) :
    (x.loadDef d).taps = x.taps := rfl

@[simp] theorem Voice.loadDef_x1 (d : DefRecord) (x : Voice) :
    (x.loadDef d).x1 = x.x1 := rfl

@[simp] theorem Voice.loadDef_x2 (d : DefRecord) (x : Voice) :
    (x.loadDef d).x2 = x.x2 := rfl

@[simp] theorem Voice.loadDef_y1 (d : DefRecord) (x : Voice) :
    (x.loadDef d).y1 = x.y1 := rfl

@[simp] theorem Voice.loadDef_y2 (d : DefRecord) (x : Voice) :
    (x.loadDef d).y2 = x.y2 := rfl

@[simp] theorem Voice.loadDef_lastIdx (d : DefRecord) (x : Voice) :
    (x.loadDef d).lastIdx = x.lastIdx := rfl

@[simp] theorem Voice.loadDef_seg (d : DefRecord) (x : Voice) :
    (x.loadDef d).seg = x.seg := rfl

@[simp] theorem Voice.loadDef_lvl (d : DefRecord) (x : Voice) :
    (x.loadDef d).lvl = x.lvl := rfl

@[simp] theorem Voice.loadDef_pos (d : DefRecord) (x : Voice) :
    (x.loadDef d).pos = x.pos := rfl

@[simp] theorem Voice.loadDef_cnt (d : DefRecord) (x : Voice) :
    (x.loadDef d).cnt = x.cnt := rfl

@[simp] theorem Voice.loadDef_tgt (d : DefRecord) (x : Voice) :
    (x.loadDef d).tgt = x.tgt := rfl

@[simp] theorem Voice.loadDef_crv (d : DefRecord) (x : Voice) :
    (x.loadDef d).crv = x.crv := rfl

@[simp] theorem Voice.loadDef_coef (d : DefRecord) (x : Voice) :
    (x.loadDef d).coef = x.coef := rfl


/-! ## `Voice.clearHistory` -/

@[simp] theorem Voice.clearHistory_startLvl (x : Voice) :
    (x.clearHistory).startLvl = x.startLvl := rfl

@[simp] theorem Voice.clearHistory_atkRt (x : Voice) :
    (x.clearHistory).atkRt = x.atkRt := rfl

@[simp] theorem Voice.clearHistory_atkLvl (x : Voice) :
    (x.clearHistory).atkLvl = x.atkLvl := rfl

@[simp] theorem Voice.clearHistory_decRt (x : Voice) :
    (x.clearHistory).decRt = x.decRt := rfl

@[simp] theorem Voice.clearHistory_susLvl (x : Voice) :
    (x.clearHistory).susLvl = x.susLvl := rfl

@[simp] theorem Voice.clearHistory_relRt (x : Voice) :
    (x.clearHistory).relRt = x.relRt := rfl

@[simp] theorem Voice.clearHistory_relLvl (x : Voice) :
    (x.clearHistory).relLvl = x.relLvl := rfl

@[simp] theorem Voice.clearHistory_curve (x : Voice) :
    (x.clearHistory).curve = x.curve := rfl

@[simp] theorem Voice.clearHistory_gain (x : Voice) :
    (x.clearHistory).gain = x.gain := rfl

@[simp] theorem Voice.clearHistory_ftype (x : Voice) :
    (x.clearHistory).ftype = x.ftype := rfl

@[simp] theorem Voice.clearHistory_taps (x : Voice) :
    (x.clearHistory).taps = x.taps := rfl

@[simp] theorem Voice.clearHistory_x1 (x : Voice) :
    (x.clearHistory).x1 = fZero := rfl

@[simp] theorem Voice.clearHistory_x2 (x : Voice) :
    (x.clearHistory).x2 = fZero := rfl

@[simp] theorem Voice.clearHistory_y1 (x : Voice) :
    (x.clearHistory).y1 = fZero := rfl

@[simp] theorem Voice.clearHistory_y2 (x : Voice) :
    (x.clearHistory).y2 = fZero := rfl

@[simp] theorem Voice.clearHistory_lastIdx (x : Voice) :
    (x.clearHistory).lastIdx = x.lastIdx := rfl

@[simp] theorem Voice.clearHistory_seg (x : Voice) :
    (x.clearHistory).seg = x.seg := rfl

@[simp] theorem Voice.clearHistory_lvl (x : Voice) :
    (x.clearHistory).lvl = x.lvl := rfl

@[simp] theorem Voice.clearHistory_pos (x : Voice) :
    (x.clearHistory).pos = x.pos := rfl

@[simp] theorem Voice.clearHistory_cnt (x : Voice) :
    (x.clearHistory).cnt = x.cnt := rfl

@[simp] theorem Voice.clearHistory_tgt (x : Voice) :
    (x.clearHistory).tgt = x.tgt := rfl

@[simp] theorem Voice.clearHistory_crv (x : Voice) :
    (x.clearHistory).crv = x.crv := rfl

@[simp] theorem Voice.clearHistory_coef (x : Voice) :
    (x.clearHistory).coef = x.coef := rfl


/-! ## `enterHold` and `enterRamp` -/

@[simp] theorem enterHold_startLvl (g : Seg) (x : Voice) :
    (enterHold g x).startLvl = x.startLvl := rfl

@[simp] theorem enterHold_atkRt (g : Seg) (x : Voice) :
    (enterHold g x).atkRt = x.atkRt := rfl

@[simp] theorem enterHold_atkLvl (g : Seg) (x : Voice) :
    (enterHold g x).atkLvl = x.atkLvl := rfl

@[simp] theorem enterHold_decRt (g : Seg) (x : Voice) :
    (enterHold g x).decRt = x.decRt := rfl

@[simp] theorem enterHold_susLvl (g : Seg) (x : Voice) :
    (enterHold g x).susLvl = x.susLvl := rfl

@[simp] theorem enterHold_relRt (g : Seg) (x : Voice) :
    (enterHold g x).relRt = x.relRt := rfl

@[simp] theorem enterHold_relLvl (g : Seg) (x : Voice) :
    (enterHold g x).relLvl = x.relLvl := rfl

@[simp] theorem enterHold_curve (g : Seg) (x : Voice) :
    (enterHold g x).curve = x.curve := rfl

@[simp] theorem enterHold_gain (g : Seg) (x : Voice) :
    (enterHold g x).gain = x.gain := rfl

@[simp] theorem enterHold_ftype (g : Seg) (x : Voice) :
    (enterHold g x).ftype = x.ftype := rfl

@[simp] theorem enterHold_taps (g : Seg) (x : Voice) :
    (enterHold g x).taps = x.taps := rfl

@[simp] theorem enterHold_x1 (g : Seg) (x : Voice) :
    (enterHold g x).x1 = x.x1 := rfl

@[simp] theorem enterHold_x2 (g : Seg) (x : Voice) :
    (enterHold g x).x2 = x.x2 := rfl

@[simp] theorem enterHold_y1 (g : Seg) (x : Voice) :
    (enterHold g x).y1 = x.y1 := rfl

@[simp] theorem enterHold_y2 (g : Seg) (x : Voice) :
    (enterHold g x).y2 = x.y2 := rfl

@[simp] theorem enterHold_lastIdx (g : Seg) (x : Voice) :
    (enterHold g x).lastIdx = x.lastIdx := rfl

@[simp] theorem enterHold_seg (g : Seg) (x : Voice) :
    (enterHold g x).seg = g := rfl

@[simp] theorem enterHold_lvl (g : Seg) (x : Voice) :
    (enterHold g x).lvl = x.lvl := rfl

@[simp] theorem enterHold_pos (g : Seg) (x : Voice) :
    (enterHold g x).pos = 0 := rfl

@[simp] theorem enterHold_cnt (g : Seg) (x : Voice) :
    (enterHold g x).cnt = 0 := rfl

@[simp] theorem enterHold_tgt (g : Seg) (x : Voice) :
    (enterHold g x).tgt = x.lvl := rfl

@[simp] theorem enterHold_crv (g : Seg) (x : Voice) :
    (enterHold g x).crv = .lin := rfl

@[simp] theorem enterHold_coef (g : Seg) (x : Voice) :
    (enterHold g x).coef = fZero := rfl

@[simp] theorem enterRamp_startLvl (expk : F32) (g : Seg) (n : Word) (t : F32) (x : Voice) :
    (enterRamp expk g n t x).startLvl = x.startLvl := rfl

@[simp] theorem enterRamp_atkRt (expk : F32) (g : Seg) (n : Word) (t : F32) (x : Voice) :
    (enterRamp expk g n t x).atkRt = x.atkRt := rfl

@[simp] theorem enterRamp_atkLvl (expk : F32) (g : Seg) (n : Word) (t : F32) (x : Voice) :
    (enterRamp expk g n t x).atkLvl = x.atkLvl := rfl

@[simp] theorem enterRamp_decRt (expk : F32) (g : Seg) (n : Word) (t : F32) (x : Voice) :
    (enterRamp expk g n t x).decRt = x.decRt := rfl

@[simp] theorem enterRamp_susLvl (expk : F32) (g : Seg) (n : Word) (t : F32) (x : Voice) :
    (enterRamp expk g n t x).susLvl = x.susLvl := rfl

@[simp] theorem enterRamp_relRt (expk : F32) (g : Seg) (n : Word) (t : F32) (x : Voice) :
    (enterRamp expk g n t x).relRt = x.relRt := rfl

@[simp] theorem enterRamp_relLvl (expk : F32) (g : Seg) (n : Word) (t : F32) (x : Voice) :
    (enterRamp expk g n t x).relLvl = x.relLvl := rfl

@[simp] theorem enterRamp_curve (expk : F32) (g : Seg) (n : Word) (t : F32) (x : Voice) :
    (enterRamp expk g n t x).curve = x.curve := rfl

@[simp] theorem enterRamp_gain (expk : F32) (g : Seg) (n : Word) (t : F32) (x : Voice) :
    (enterRamp expk g n t x).gain = x.gain := rfl

@[simp] theorem enterRamp_ftype (expk : F32) (g : Seg) (n : Word) (t : F32) (x : Voice) :
    (enterRamp expk g n t x).ftype = x.ftype := rfl

@[simp] theorem enterRamp_taps (expk : F32) (g : Seg) (n : Word) (t : F32) (x : Voice) :
    (enterRamp expk g n t x).taps = x.taps := rfl

@[simp] theorem enterRamp_x1 (expk : F32) (g : Seg) (n : Word) (t : F32) (x : Voice) :
    (enterRamp expk g n t x).x1 = x.x1 := rfl

@[simp] theorem enterRamp_x2 (expk : F32) (g : Seg) (n : Word) (t : F32) (x : Voice) :
    (enterRamp expk g n t x).x2 = x.x2 := rfl

@[simp] theorem enterRamp_y1 (expk : F32) (g : Seg) (n : Word) (t : F32) (x : Voice) :
    (enterRamp expk g n t x).y1 = x.y1 := rfl

@[simp] theorem enterRamp_y2 (expk : F32) (g : Seg) (n : Word) (t : F32) (x : Voice) :
    (enterRamp expk g n t x).y2 = x.y2 := rfl

@[simp] theorem enterRamp_lastIdx (expk : F32) (g : Seg) (n : Word) (t : F32) (x : Voice) :
    (enterRamp expk g n t x).lastIdx = x.lastIdx := rfl

@[simp] theorem enterRamp_seg (expk : F32) (g : Seg) (n : Word) (t : F32) (x : Voice) :
    (enterRamp expk g n t x).seg = g := rfl

@[simp] theorem enterRamp_lvl (expk : F32) (g : Seg) (n : Word) (t : F32) (x : Voice) :
    (enterRamp expk g n t x).lvl = x.lvl := rfl

@[simp] theorem enterRamp_pos (expk : F32) (g : Seg) (n : Word) (t : F32) (x : Voice) :
    (enterRamp expk g n t x).pos = 0 := rfl

@[simp] theorem enterRamp_cnt (expk : F32) (g : Seg) (n : Word) (t : F32) (x : Voice) :
    (enterRamp expk g n t x).cnt = n := rfl

@[simp] theorem enterRamp_tgt (expk : F32) (g : Seg) (n : Word) (t : F32) (x : Voice) :
    (enterRamp expk g n t x).tgt = t := rfl

@[simp] theorem enterRamp_crv (expk : F32) (g : Seg) (n : Word) (t : F32) (x : Voice) :
    (enterRamp expk g n t x).crv = x.curve := rfl

@[simp] theorem enterRamp_coef (expk : F32) (g : Seg) (n : Word) (t : F32) (x : Voice) :
    (enterRamp expk g n t x).coef = match x.curve with
      | .exp => expCoef expk n
      | .lin => fZero := rfl


/-! ## `biquad` -/

@[simp] theorem biquad_startLvl (i : F32) (x : Voice) :
    ((biquad x i).2).startLvl = x.startLvl := rfl

@[simp] theorem biquad_atkRt (i : F32) (x : Voice) :
    ((biquad x i).2).atkRt = x.atkRt := rfl

@[simp] theorem biquad_atkLvl (i : F32) (x : Voice) :
    ((biquad x i).2).atkLvl = x.atkLvl := rfl

@[simp] theorem biquad_decRt (i : F32) (x : Voice) :
    ((biquad x i).2).decRt = x.decRt := rfl

@[simp] theorem biquad_susLvl (i : F32) (x : Voice) :
    ((biquad x i).2).susLvl = x.susLvl := rfl

@[simp] theorem biquad_relRt (i : F32) (x : Voice) :
    ((biquad x i).2).relRt = x.relRt := rfl

@[simp] theorem biquad_relLvl (i : F32) (x : Voice) :
    ((biquad x i).2).relLvl = x.relLvl := rfl

@[simp] theorem biquad_curve (i : F32) (x : Voice) :
    ((biquad x i).2).curve = x.curve := rfl

@[simp] theorem biquad_gain (i : F32) (x : Voice) :
    ((biquad x i).2).gain = x.gain := rfl

@[simp] theorem biquad_ftype (i : F32) (x : Voice) :
    ((biquad x i).2).ftype = x.ftype := rfl

@[simp] theorem biquad_taps (i : F32) (x : Voice) :
    ((biquad x i).2).taps = x.taps := rfl

@[simp] theorem biquad_x1 (i : F32) (x : Voice) :
    ((biquad x i).2).x1 = i := rfl

@[simp] theorem biquad_x2 (i : F32) (x : Voice) :
    ((biquad x i).2).x2 = x.x1 := rfl

@[simp] theorem biquad_y1 (i : F32) (x : Voice) :
    ((biquad x i).2).y1 = biquadOut x i := rfl

@[simp] theorem biquad_y2 (i : F32) (x : Voice) :
    ((biquad x i).2).y2 = x.y1 := rfl

@[simp] theorem biquad_lastIdx (i : F32) (x : Voice) :
    ((biquad x i).2).lastIdx = x.lastIdx := rfl

@[simp] theorem biquad_seg (i : F32) (x : Voice) :
    ((biquad x i).2).seg = x.seg := rfl

@[simp] theorem biquad_lvl (i : F32) (x : Voice) :
    ((biquad x i).2).lvl = x.lvl := rfl

@[simp] theorem biquad_pos (i : F32) (x : Voice) :
    ((biquad x i).2).pos = x.pos := rfl

@[simp] theorem biquad_cnt (i : F32) (x : Voice) :
    ((biquad x i).2).cnt = x.cnt := rfl

@[simp] theorem biquad_tgt (i : F32) (x : Voice) :
    ((biquad x i).2).tgt = x.tgt := rfl

@[simp] theorem biquad_crv (i : F32) (x : Voice) :
    ((biquad x i).2).crv = x.crv := rfl

@[simp] theorem biquad_coef (i : F32) (x : Voice) :
    ((biquad x i).2).coef = x.coef := rfl

@[simp] theorem biquad_fst (i : F32) (x : Voice) : (biquad x i).1 = biquadOut x i := rfl


/-! ## The definition record -/

theorem DefRecord.get_set (d : DefRecord) (k j : DefWord) (w : Word) :
    (d.set k w).get j = if j = k then w else d.get j := by
  cases k <;> cases j <;> rfl

theorem Taps.get_set (c : Taps) (t u : Tap) (w : F32) :
    (c.set t w).get u = if u = t then w else c.get u := by
  cases t <;> cases u <;> rfl

end Sys2Proof.Machine
end

