-- ==== Sys2Proof/Laws/Ops.lean ====
section
/-! SUPPORT. One lemma for each shared operation that says everything it can do. -/

namespace Sys2Proof.Machine

/-! ## Rejecting and responding -/

/-- The error capture and the response of a rejection, in full. -/
theorem reject_eq (c : Status) (w : Cmd) (s : State) :
    reject c w s =
      { s with
        err := true
        errCause := if s.err then s.errCause else c
        errCmd := if s.err then s.errCmd else w
        responses := { status := c, data := 0 } :: s.responses } := by
  unfold reject State.capture
  cases s with | mk _ _ err => cases err <;> rfl

theorem rejected_eq_next {c : Status} {i : Instr} {s t : State} :
    rejected c i s = .next t ↔ t = reject c (encode i) s := by
  simp only [rejected, Host.Outcome.next.injEq]; exact eq_comm

theorem done_eq_next {d : Word} {s t : State} : done d s = .next t ↔ t = respond d s := by
  simp only [done, Host.Outcome.next.injEq]; exact eq_comm

/-! ## Voice contexts -/

@[simp] theorem respond_nv (d : Word) (s : State) : (respond d s).nv = s.nv := rfl

@[simp] theorem reject_nv (c : Status) (w : Cmd) (s : State) : (reject c w s).nv = s.nv := by
  simp [State.nv]

@[simp] theorem State.setVoice_nv (v : VoiceNo) (x : Voice) (s : State) : (s.setVoice v x).nv = s.nv := by
  simp [State.nv]

@[simp] theorem hardwareReset_nv (s : State) : (hardwareReset s).nv = s.nv := by
  show (List.replicate s.nv Voice.reset).length = s.nv
  simp

@[simp] theorem tearDown_nv (s : State) : (tearDown s).nv = s.nv := hardwareReset_nv s

@[simp] theorem respond_voice? (d : Word) (s : State) (v : VoiceNo) : (respond d s).voice? v = s.voice? v := rfl

@[simp] theorem reject_voice? (c : Status) (w : Cmd) (s : State) (v : VoiceNo) :
    (reject c w s).voice? v = s.voice? v := by
  simp [State.voice?]

theorem State.voice?_eq_none {s : State} {v : VoiceNo} : s.voice? v = none ↔ s.nv ≤ v.toNat := by
  simp [State.voice?, State.nv]

theorem State.lt_nv_of_voice? {s : State} {v : VoiceNo} {x : Voice} (h : s.voice? v = some x) : v.toNat < s.nv :=
  (List.getElem?_eq_some_iff.1 h).1

theorem State.voice?_mem {s : State} {v : VoiceNo} {x : Voice} (h : s.voice? v = some x) : x ∈ s.voices :=
  List.mem_of_getElem? h

theorem State.exists_voice {s : State} {v : VoiceNo} (h : v.toNat < s.nv) : ∃ x, s.voice? v = some x :=
  ⟨_, List.getElem?_eq_getElem h⟩

theorem State.voice?_setVoice {s : State} {v : VoiceNo} (h : v.toNat < s.nv) (y : Voice) :
    (s.setVoice v y).voice? v = some y := by
  simp only [State.voice?, State.setVoice_voices]
  exact List.getElem?_set_self h

theorem State.voice?_setVoice_ne (s : State) {u v : VoiceNo} (h : u ≠ v) (y : Voice) :
    (s.setVoice v y).voice? u = s.voice? u := by
  simp only [State.voice?, State.setVoice_voices]
  exact List.getElem?_set_ne fun e => h (BitVec.eq_of_toNat_eq e.symm)

theorem State.setVoice_same {s : State} {v : VoiceNo} {x : Voice} (h : s.voice? v = some x) :
    s.setVoice v x = s := by
  unfold State.setVoice
  obtain ⟨hlt, rfl⟩ := List.getElem?_eq_some_iff.1 h
  rw [List.set_getElem_self]

theorem State.setVoice_setVoice (s : State) (v : VoiceNo) (x y : Voice) :
    (s.setVoice v x).setVoice v y = s.setVoice v y := by
  simp [State.setVoice]

theorem withVoice_none {v : VoiceNo} {i : Instr} {s : State} {k : Voice → Result} (h : s.voice? v = none) :
    withVoice v i s k = rejected .badVoice i s := by
  simp [withVoice, h]

theorem withVoice_some {v : VoiceNo} {i : Instr} {s : State} {k : Voice → Result} {x : Voice}
    (h : s.voice? v = some x) : withVoice v i s k = k x := by
  simp [withVoice, h]

/-- A command that names a voice: it is rejected for want of the voice, or its body answers. -/
theorem withVoice_cases {v : VoiceNo} {i : Instr} {s : State} {k : Voice → Result} {r : Result}
    (h : withVoice v i s k = r) :
    (s.voice? v = none ∧ r = rejected .badVoice i s) ∨ ∃ x, s.voice? v = some x ∧ r = k x := by
  cases hv : s.voice? v with
  | none => exact .inl ⟨rfl, h ▸ withVoice_none hv⟩
  | some x => exact .inr ⟨x, rfl, h ▸ withVoice_some hv⟩

/-! ## The table -/

theorem State.wt_eq_some {s : State} {i : Nat} {e : F32} :
    s.wt i = some e ↔
      s.tblRdy = true ∧ (i : Int) < sext32 s.tlen ∧ e = sinRom s.params.sinRom (sext32 s.tlen).toNat i := by
  unfold State.wt
  split
  · next h =>
    simp only [Bool.and_eq_true, decide_eq_true_eq] at h
    simp [h.1, h.2, eq_comm]
  · next h =>
    simp only [Bool.and_eq_true, decide_eq_true_eq] at h
    simp only [reduceCtorEq, false_iff]
    exact fun ⟨a, b, _⟩ => h ⟨a, b⟩

/-- The table is a function of three registers (R45). -/
theorem State.wt_congr {s t : State} (hr : t.tblRdy = s.tblRdy) (hl : t.tlen = s.tlen) (hp : t.params = s.params) :
    t.wt = s.wt := by
  funext i; simp [State.wt, hr, hl, hp]

theorem State.coefLP_eq_some {s : State} {idx : Nat} {c : Taps} :
    s.coefLP idx = some c ↔
      ∃ a b, s.wt idx = some a ∧ s.wt (idx + zext32 s.cosoffs) = some b ∧ c = tapsOf a b := by
  unfold State.coefLP
  cases s.wt idx <;> cases s.wt (idx + zext32 s.cosoffs) <;> simp [eq_comm]

theorem State.coefLP_congr {s t : State} (hr : t.tblRdy = s.tblRdy) (hl : t.tlen = s.tlen) (hp : t.params = s.params)
    (hc : t.cosoffs = s.cosoffs) : t.coefLP = s.coefLP := by
  funext i; simp [State.coefLP, State.wt_congr hr hl hp, hc]

/-- Steps 4 and 5 of `SAMPLE`: nothing, or new coefficients and the new cached index. -/
theorem State.refresh_eq_some {s : State} {idx : Nat} {x y : Voice} :
    s.refresh idx x = some y ↔
      (BitVec.ofNat 32 idx = x.lastIdx ∧ y = x) ∨
      (BitVec.ofNat 32 idx ≠ x.lastIdx ∧
        ∃ c, s.coefLP idx = some c ∧ y = { x with taps := c, lastIdx := BitVec.ofNat 32 idx }) := by
  unfold State.refresh
  split
  · next h => simp [h, eq_comm]
  · next h => cases hc : s.coefLP idx <;> simp [h, eq_comm]

/-! ## Powers of two -/

theorem isPow2_iff {n : Nat} : isPow2 n = true ↔ ∃ k, n = 2 ^ k := by
  constructor
  · intro h; exact ⟨_, by simpa [isPow2] using h⟩
  · rintro ⟨k, rfl⟩; simp [isPow2, Nat.log2_two_pow]

theorem legalLength_iff {lmax : Nat} {n : Int} :
    legalLength lmax n = true ↔ 4 ≤ n ∧ n ≤ lmax ∧ ∃ k, n.toNat = 2 ^ k := by
  simp [legalLength, isPow2_iff, and_assoc]

/-! ## The definition words -/

theorem validDefWord_ne_ok {k : DefWord} {w : Word} (h : validDefWord k w ≠ .ok) :
    validDefWord k w = .cfgRate ∨ validDefWord k w = .badValue := by
  revert h
  cases k <;> simp only [validDefWord] <;> (try split) <;> simp

/-- The words of a list are all legal exactly when the check of the list finds nothing. -/
theorem firstInvalid_eq_ok {d : DefRecord} {ks : List DefWord} :
    firstInvalid d ks = .ok ↔ ∀ k ∈ ks, validDefWord k (d.get k) = .ok := by
  induction ks with
  | nil => simp [firstInvalid]
  | cons k ks ih => by_cases h : validDefWord k (d.get k) = .ok <;> simp [firstInvalid, h, ih]

/-! ## The command port -/

theorem State.takeInput_nil {s : State} (h : s.pending = []) : s.takeInput = none := by
  simp [State.takeInput, h]

theorem State.takeInput_cons {s : State} {i : Input} {rest : List Input} (h : s.pending = i :: rest) :
    s.takeInput = some (i, { s with pending := rest }) := by
  simp [State.takeInput, h]

/-- One step, from the parameters and the input presented. -/
theorem step_cases {s t : State} (h : step s = .next t) :
    s.legalParams = true ∧
      ((s.pending = [] ∧ t = s) ∨
        ∃ i rest, s.pending = i :: rest ∧ execInput i { s with pending := rest } = .next t) := by
  unfold step at h
  split at h
  · next hp =>
    refine ⟨hp, ?_⟩
    cases hq : s.pending with
    | nil =>
      rw [State.takeInput_nil hq] at h
      exact .inl ⟨rfl, (Host.Outcome.next.inj h).symm⟩
    | cons i rest =>
      rw [State.takeInput_cons hq] at h
      exact .inr ⟨i, rest, rfl, h⟩
  · cases h

end Sys2Proof.Machine
end

