-- ==== Sys2Proof/Laws/Coupling.lean ====
section
/-! SUPPORT. The table of a session, the range check and the index, in states that satisfy the invariant. -/

namespace Sys2Proof.Machine

/-- The table length of a session is a power of two, and `COSOFFS` a quarter of it (R36, R39). -/
theorem State.Ok.length {s : State} (h : s.Ok) (hr : s.tblRdy = true) :
    ∃ k, 2 ≤ k ∧ k ≤ 24 ∧ k ≤ s.params.log2Lmax ∧ s.tlen.toNat = 2 ^ k ∧ s.tlen.toInt = 2 ^ k ∧
      s.cosoffs.toNat = 2 ^ (k - 2) ∧ s.cosoffs.toInt = 2 ^ (k - 2) := by
  obtain ⟨h4, hle, k, hk⟩ := legalLength_iff.1 (h.tlen hr)
  have hp := h.params
  simp only [State.legalParams, Bool.and_eq_true, decide_eq_true_eq] at hp
  have hle' : (sext32 s.tlen).toNat ≤ 2 ^ s.params.log2Lmax := by
    simp only [State.lmax] at hle; omega
  have hk24 : k ≤ s.params.log2Lmax := by
    rw [hk] at hle'; exact (Nat.pow_le_pow_iff_right (by decide)).1 hle'
  have hlog : s.params.log2Lmax ≤ 24 := hp.1.2
  have hk2 : 2 ≤ k := by
    rcases Nat.lt_or_ge k 2 with h | h
    · have : 2 ^ k ≤ 2 ^ 1 := Nat.pow_le_pow_right (by decide) (by omega)
      omega
    · exact h
  have hint : s.tlen.toInt = 2 ^ k := by
    have e : s.tlen.toInt = ((2 ^ k : Nat) : Int) := by
      rw [← hk]; exact (Int.toNat_of_nonneg (a := sext32 s.tlen) (by omega)).symm
    rw [e]; simp
  have hbig : 2 ^ k ≤ 2 ^ 24 := Nat.pow_le_pow_right (by decide) (by omega)
  have hnat : s.tlen.toNat = 2 ^ k := by
    have : (2 : Int) ^ k = ((2 ^ k : Nat) : Int) := by simp
    rw [BitVec.toInt_eq_toNat_cond] at hint
    split at hint <;> omega
  have hq : 2 ^ k / 4 = 2 ^ (k - 2) := by
    rw [show k = k - 2 + 2 by omega, Nat.pow_add]; simp
  have hc : s.cosoffs.toNat = 2 ^ (k - 2) := by
    rw [h.cosoffs hr, BitVec.toNat_ofNat]
    show s.tlen.toNat / 4 % 2 ^ 32 = _
    rw [hnat, hq, Nat.mod_eq_of_lt]
    have : 2 ^ (k - 2) ≤ 2 ^ 24 := Nat.pow_le_pow_right (by decide) (by omega)
    omega
  refine ⟨k, hk2, by omega, hk24, hnat, hint, hc, ?_⟩
  have : 2 ^ (k - 2) ≤ 2 ^ 24 := Nat.pow_le_pow_right (by decide) (by omega)
  have e : (2 : Int) ^ (k - 2) = ((2 ^ (k - 2) : Nat) : Int) := by simp
  rw [BitVec.toInt_eq_toNat_cond, hc, e]
  split <;> omega

theorem fVal_nonneg_of_fge {p : F32} (h : fge p fZero = true) : fIsNaN p = false ∧ 0 ≤ fVal p := by
  unfold fge at h
  simp only [Bool.and_eq_true, Bool.not_eq_true', decide_eq_true_eq] at h
  have : fVal fZero = 0 := rfl
  exact ⟨h.1.1, by omega⟩

theorem fVal_lt_of_flt {a b : F32} (h : flt a b = true) : fVal a < fVal b := by
  unfold flt at h
  simp only [Bool.and_eq_true, decide_eq_true_eq] at h
  exact h.2

/-- The floor of a value that is not negative (R23). -/
theorem floorIdx_eq {p : F32} (h : 0 ≤ fVal p) : (floorIdx p : Int) = fVal p / 2 ^ 149 := by
  have hm : fVal p = fMag p := by
    unfold fVal at h ⊢
    split <;> simp_all
  rw [hm, floorIdx]
  exact Int.natCast_ediv _ _

/-- A product that passes the range check has its index below `COSOFFS` (R23, R71). -/
theorem State.Ok.floorIdx_lt {s : State} (h : s.Ok) (hr : s.tblRdy = true) {p : F32} (hp : s.inRange p = true) :
    floorIdx p < zext32 s.cosoffs := by
  obtain ⟨k, h2, h24, -, -, -, hc, hi⟩ := h.length hr
  have hb : 2 ^ (k - 2) < 2 ^ 24 := Nat.pow_lt_pow_right (by decide) (by omega)
  have hv := (fVal_i2f hb).1
  simp only [State.inRange, Bool.and_eq_true] at hp
  have h0 := fVal_nonneg_of_fge hp.1
  have h1 := fVal_lt_of_flt hp.2
  have e : sext32 s.cosoffs = ((2 ^ (k - 2) : Nat) : Int) := by
    show s.cosoffs.toInt = _; rw [hi]; simp
  rw [e, hv] at h1
  have hf := floorIdx_eq h0.2
  have : fVal p / 2 ^ 149 < ((2 ^ (k - 2) : Nat) : Int) := Int.ediv_lt_of_lt_mul (by decide) h1
  show _ < s.cosoffs.toNat
  rw [hc]
  omega

/-- In range, both table entries exist (R71). -/
theorem State.Ok.coefLP_isSome {s : State} (h : s.Ok) (hr : s.tblRdy = true) {idx : Nat}
    (hi : idx < zext32 s.cosoffs) :
    s.coefLP idx = some (tapsOf (sinRom s.params.sinRom s.tlen.toNat idx)
      (sinRom s.params.sinRom s.tlen.toNat (idx + zext32 s.cosoffs))) := by
  obtain ⟨k, h2, h24, -, hn, ht, hc, -⟩ := h.length hr
  have hsplit : 2 ^ k = 4 * 2 ^ (k - 2) := by
    rw [show k = k - 2 + 2 by omega, Nat.pow_add, show k - 2 + 2 - 2 = k - 2 by omega]; omega
  have hcast : ((2 ^ k : Nat) : Int) = (2 : Int) ^ k := by simp
  have hi' : idx < 2 ^ (k - 2) := by rw [← hc]; exact hi
  have htn : (sext32 s.tlen).toNat = s.tlen.toNat := by
    show s.tlen.toInt.toNat = _; rw [ht, hn, ← hcast]; rfl
  have hlen : sext32 s.tlen = ((2 ^ k : Nat) : Int) := by rw [hcast]; exact ht
  refine State.coefLP_eq_some.2 ⟨_, _, State.wt_eq_some.2 ⟨hr, ?_, rfl⟩, State.wt_eq_some.2 ⟨hr, ?_, rfl⟩, by rw [htn]⟩
  · rw [hlen]; omega
  · have : zext32 s.cosoffs = 2 ^ (k - 2) := hc
    rw [hlen, this]; omega

end Sys2Proof.Machine
end

