-- ==== Sys2Proof/Laws/Decode.lean ====
section
/-! SUPPORT. The code tables inverted, the fields of a packed word, and the word put together from its fields. -/

namespace Sys2Proof

/-! ## Codes -/

@[simp] theorem DefWord.ofSel_sel (k : DefWord) : DefWord.ofSel k.sel = some k := by
  cases k <;> rfl

@[simp] theorem Tap.ofSel_sel (t : Tap) : Tap.ofSel t.sel = some t := by
  cases t <;> rfl

@[simp] theorem VReg.ofSel_sel (p : VReg) : VReg.ofSel p.sel = some p := by
  rcases p with k | t | _ <;> first | rfl | (cases k <;> rfl) | (cases t <;> rfl)

@[simp] theorem GReg.ofSel_sel (g : GReg) : GReg.ofSel g.sel = some g := by
  cases g <;> rfl

@[simp] theorem Opcode.ofByte_byte (o : Opcode) : Opcode.ofByte o.byte = some o := by
  cases o <;> rfl

theorem DefWord.sel_of_ofSel {a : BitVec 8} {k : DefWord} (h : DefWord.ofSel a = some k) : k.sel = a := by
  unfold DefWord.ofSel at h
  split at h <;> cases h <;> (apply BitVec.eq_of_toNat_eq; simp_all [DefWord.sel])

theorem Tap.sel_of_ofSel {a : BitVec 8} {t : Tap} (h : Tap.ofSel a = some t) : t.sel = a := by
  unfold Tap.ofSel at h
  split at h <;> cases h <;> (apply BitVec.eq_of_toNat_eq; simp_all [Tap.sel])

theorem GReg.sel_of_ofSel {a : BitVec 8} {g : GReg} (h : GReg.ofSel a = some g) : g.sel = a := by
  unfold GReg.ofSel at h
  split at h <;> cases h <;> (apply BitVec.eq_of_toNat_eq; simp_all [GReg.sel])

theorem Opcode.byte_of_ofByte {b : BitVec 8} {o : Opcode} (h : Opcode.ofByte b = some o) : o.byte = b := by
  unfold Opcode.ofByte at h
  split at h <;> cases h <;> (apply BitVec.eq_of_toNat_eq; simp_all [Opcode.byte])

theorem VReg.sel_of_ofSel {a : BitVec 8} {p : VReg} (h : VReg.ofSel a = some p) : p.sel = a := by
  unfold VReg.ofSel at h
  split at h
  case h_13 =>
    simp only [Option.or_eq_some_iff, Option.map_eq_some_iff] at h
    rcases h with ⟨k, hk, rfl⟩ | ⟨_, t, ht, rfl⟩
    · exact DefWord.sel_of_ofSel hk
    · exact Tap.sel_of_ofSel ht
  all_goals cases h; apply BitVec.eq_of_toNat_eq; simp_all [VReg.sel]

/-! ## Fields -/

@[simp] theorem opField_packCmd (op : BitVec 8) (v : VoiceNo) (a : BitVec 8) (imm : Word) :
    opField (packCmd op v a imm) = op := by
  unfold opField packCmd
  ext i hi
  simp only [BitVec.getElem_extractLsb', BitVec.getLsbD_append]
  rw [if_neg (by omega), if_neg (by omega), if_neg (by omega), if_neg (by omega)]
  rw [show 56 + i - 32 - 8 - 8 - 8 = i by omega]
  exact BitVec.getLsbD_eq_getElem hi

@[simp] theorem vField_packCmd (op : BitVec 8) (v : VoiceNo) (a : BitVec 8) (imm : Word) :
    vField (packCmd op v a imm) = v := by
  unfold vField packCmd
  ext i hi
  simp only [BitVec.getElem_extractLsb', BitVec.getLsbD_append]
  rw [if_neg (by omega), if_neg (by omega), if_neg (by omega), if_pos (by omega)]
  rw [show 48 + i - 32 - 8 - 8 = i by omega]
  exact BitVec.getLsbD_eq_getElem hi

@[simp] theorem aField_packCmd (op : BitVec 8) (v : VoiceNo) (a : BitVec 8) (imm : Word) :
    aField (packCmd op v a imm) = a := by
  unfold aField packCmd
  ext i hi
  simp only [BitVec.getElem_extractLsb', BitVec.getLsbD_append]
  rw [if_neg (by omega), if_neg (by omega), if_pos (by omega)]
  rw [show 40 + i - 32 - 8 = i by omega]
  exact BitVec.getLsbD_eq_getElem hi

@[simp] theorem zField_packCmd (op : BitVec 8) (v : VoiceNo) (a : BitVec 8) (imm : Word) :
    zField (packCmd op v a imm) = 0 := by
  unfold zField packCmd
  ext i hi
  simp only [BitVec.getElem_extractLsb', BitVec.getLsbD_append]
  rw [if_neg (by omega), if_pos (by omega)]
  simp

@[simp] theorem immField_packCmd (op : BitVec 8) (v : VoiceNo) (a : BitVec 8) (imm : Word) :
    immField (packCmd op v a imm) = imm := by
  unfold immField packCmd
  ext i hi
  simp only [BitVec.getElem_extractLsb', BitVec.getLsbD_append]
  rw [if_pos (by omega), Nat.zero_add]
  exact BitVec.getLsbD_eq_getElem hi

/-- A word is the concatenation of its fields (R91). -/
theorem fields_append (w : Cmd) : opField w ++ vField w ++ aField w ++ zField w ++ immField w = w := by
  unfold opField vField aField zField immField
  ext i hi
  simp only [BitVec.getElem_append, BitVec.getElem_extractLsb']
  repeat' split
  all_goals
    rw [BitVec.getLsbD_eq_getElem (by omega)]
    congr 1
    omega

/-- A word whose reserved field is zero is packed from its other fields. -/
theorem packCmd_fields {w : Cmd} (hz : zField w = 0) :
    packCmd (opField w) (vField w) (aField w) (immField w) = w := by
  have h := fields_append w
  rw [hz] at h
  exact h

end Sys2Proof
end

