-- ==== Sys2Proof/Laws/Envelope.lean ====
section
/-! SUPPORT. What entering a segment, a step and the voice operations built on them can do to a voice context. -/

namespace Sys2Proof.Machine

/-! ## Frames -/

/-- The two contexts differ at most in the envelope's progress (10_state R59 to R64). -/
def Voice.SameBesidesProgress (x y : Voice) : Prop :=
  y = { x with seg := y.seg, lvl := y.lvl, pos := y.pos, cnt := y.cnt, tgt := y.tgt, crv := y.crv, coef := y.coef }

theorem Voice.SameBesidesProgress.refl (x : Voice) : x.SameBesidesProgress x := rfl

theorem Voice.SameBesidesProgress.trans {x y z : Voice} (h : x.SameBesidesProgress y) (k : y.SameBesidesProgress z) :
    x.SameBesidesProgress z := by
  unfold Voice.SameBesidesProgress at *
  rw [k, h]

theorem Voice.sameBesidesProgress_iff {x y : Voice} :
    x.SameBesidesProgress y ↔
      (∀ k, y.getDef k = x.getDef k) ∧ y.curve = x.curve ∧ y.ftype = x.ftype ∧ y.taps = x.taps ∧
        y.x1 = x.x1 ∧ y.x2 = x.x2 ∧ y.y1 = x.y1 ∧ y.y2 = x.y2 ∧ y.lastIdx = x.lastIdx := by
  constructor
  · intro h
    rw [h]
    exact ⟨fun k => by cases k <;> rfl, rfl, rfl, rfl, rfl, rfl, rfl, rfl, rfl⟩
  · rintro ⟨h, h1, h2, h3, h4, h5, h6, h7, h8⟩
    have a := h .startLvl
    have b := h .atkRt
    have c := h .atkLvl
    have d := h .decRt
    have e := h .susLvl
    have f := h .relRt
    have g := h .relLvl
    have i := h .gain
    unfold Voice.SameBesidesProgress
    cases x; cases y
    simp_all [Voice.getDef]

theorem enterHold_frame (g : Seg) (x : Voice) : x.SameBesidesProgress (enterHold g x) := rfl

theorem enterRamp_frame (e : F32) (g : Seg) (n : Word) (t : F32) (x : Voice) :
    x.SameBesidesProgress (enterRamp e g n t x) := rfl

theorem enterRelease_frame (e : F32) (x : Voice) : x.SameBesidesProgress (enterRelease e x) := by
  unfold enterRelease; split <;> rfl

theorem enterDecay_frame (e : F32) (x : Voice) : x.SameBesidesProgress (enterDecay e x) := by
  unfold enterDecay; split <;> rfl

theorem enterAttack_frame (e : F32) (x : Voice) : x.SameBesidesProgress (enterAttack e x) := by
  unfold enterAttack
  split
  · exact Voice.SameBesidesProgress.trans (y := { x with lvl := x.atkLvl }) rfl (enterDecay_frame _ _)
  · rfl

theorem enterSeg_frame (e : F32) (g : Seg) (x : Voice) : x.SameBesidesProgress (enterSeg e g x) := by
  cases g
  · rfl
  · exact enterAttack_frame _ _
  · exact enterDecay_frame _ _
  · rfl
  · exact enterRelease_frame _ _
  · rfl

theorem rampStep_frame (e : F32) (x : Voice) : x.SameBesidesProgress (rampStep e x) := by
  unfold rampStep
  dsimp only
  split
  · exact Voice.SameBesidesProgress.trans (y := { x with lvl := rampLevel x, pos := x.pos + 1 }) rfl
      (enterSeg_frame _ _ _)
  · rfl

theorem envAdvance_frame (e : F32) (x : Voice) : x.SameBesidesProgress (envAdvance e x) := by
  unfold envAdvance; split
  · exact rampStep_frame _ _
  · rfl

theorem envSkip_frame (e : F32) (n : Nat) (x : Voice) : x.SameBesidesProgress (envSkip e n x) := by
  induction n generalizing x with
  | zero => rfl
  | succ n ih =>
    unfold envSkip
    split
    · exact (envAdvance_frame e x).trans (ih _)
    · rfl

theorem releaseVoice_frame (e : F32) (x : Voice) : x.SameBesidesProgress (releaseVoice e x) := by
  unfold releaseVoice; split <;> first | exact enterSeg_frame _ _ _ | rfl

theorem restart_frame (e : F32) (x : Voice) : x.SameBesidesProgress (restart e x) :=
  Voice.SameBesidesProgress.trans (y := { x with lvl := x.startLvl }) rfl (enterSeg_frame _ _ _)

/-! ## Entering a segment, by cases -/

theorem enterRelease_zero {e : F32} {x : Voice} (h : x.relRt = 0) :
    enterRelease e x = enterHold .done { x with lvl := x.relLvl } := if_pos h

theorem enterRelease_ramp {e : F32} {x : Voice} (h : x.relRt ≠ 0) :
    enterRelease e x = enterRamp e .release x.relRt x.relLvl x := if_neg h

theorem enterDecay_zero {e : F32} {x : Voice} (h : x.decRt = 0) :
    enterDecay e x = enterHold .sustain { x with lvl := x.susLvl } := if_pos h

theorem enterDecay_ramp {e : F32} {x : Voice} (h : x.decRt ≠ 0) :
    enterDecay e x = enterRamp e .decay x.decRt x.susLvl x := if_neg h

theorem enterAttack_zero {e : F32} {x : Voice} (h : x.atkRt = 0) :
    enterAttack e x = enterDecay e { x with lvl := x.atkLvl } := if_pos h

theorem enterAttack_ramp {e : F32} {x : Voice} (h : x.atkRt ≠ 0) :
    enterAttack e x = enterRamp e .attack x.atkRt x.atkLvl x := if_neg h

theorem enterSeg_attack (e : F32) (x : Voice) : enterSeg e .attack x = enterAttack e x := rfl
theorem enterSeg_decay (e : F32) (x : Voice) : enterSeg e .decay x = enterDecay e x := rfl
theorem enterSeg_sustain (e : F32) (x : Voice) : enterSeg e .sustain x = enterHold .sustain x := rfl
theorem enterSeg_release (e : F32) (x : Voice) : enterSeg e .release x = enterRelease e x := rfl
theorem enterSeg_done (e : F32) (x : Voice) : enterSeg e .done x = enterHold .done x := rfl

/-- The release signal, by the state it finds. -/
theorem releaseVoice_enters {e : F32} {x : Voice} (h : x.seg = .attack ∨ x.seg = .decay ∨ x.seg = .sustain) :
    releaseVoice e x = enterRelease e x := by
  unfold releaseVoice; rcases h with h | h | h <;> rw [h] <;> rfl

theorem releaseVoice_stays {e : F32} {x : Voice} (h : x.seg = .idle ∨ x.seg = .release ∨ x.seg = .done) :
    releaseVoice e x = x := by
  unfold releaseVoice; rcases h with h | h | h <;> rw [h]

/-! ## Steps -/

theorem Seg.isRamp_eq_true {g : Seg} : g.isRamp = true ↔ g = .attack ∨ g = .decay ∨ g = .release := by
  cases g <;> simp [Seg.isRamp]

theorem Seg.isRamp_eq_false {g : Seg} : g.isRamp = false ↔ g = .idle ∨ g = .sustain ∨ g = .done := by
  cases g <;> simp [Seg.isRamp]

theorem envAdvance_hold {e : F32} {x : Voice} (h : x.seg.isRamp = false) : envAdvance e x = x := by
  simp [envAdvance, h]

theorem envAdvance_ramp {e : F32} {x : Voice} (h : x.seg.isRamp = true) : envAdvance e x = rampStep e x := by
  simp [envAdvance, h]

/-- A step that does not complete the ramp. -/
theorem rampStep_of_ne {e : F32} {x : Voice} (h : x.pos + 1 ≠ x.cnt) :
    rampStep e x = { x with lvl := rampLevel x, pos := x.pos + 1 } :=
  if_neg h

/-- The step that completes the ramp. -/
theorem rampStep_of_eq {e : F32} {x : Voice} (h : x.pos + 1 = x.cnt) :
    rampStep e x = enterSeg e x.seg.next { x with lvl := rampLevel x, pos := x.pos + 1 } :=
  if_pos h

/-- One step remains exactly when the step completes the ramp. -/
theorem cnt_sub_pos_eq_one {x : Voice} : x.cnt - x.pos = 1 ↔ x.pos + 1 = x.cnt := by
  bv_omega

@[simp] theorem envSkip_zero (e : F32) (x : Voice) : envSkip e 0 x = x := rfl

/-- Skipping `n + 1` steps is one step and then `n`: stopping early in a hold state loses nothing. -/
theorem envSkip_succ (e : F32) (n : Nat) (x : Voice) : envSkip e (n + 1) x = envSkip e n (envAdvance e x) := by
  cases h : x.seg.isRamp with
  | true => simp [envSkip, h]
  | false => cases n <;> simp [envSkip, h, envAdvance_hold h]

/-! ## Where a segment entry leads -/

/-- The progress registers agree with each other (R61 to R64, R66 (c) and (d)). -/
structure Voice.ProgressOk (x : Voice) : Prop where
  active : x.seg ≠ .idle
  ramp : x.seg.isRamp = true → zext32 x.pos < zext32 x.cnt ∧ 0 ≤ sext32 x.cnt
  hold : x.seg.isRamp = false → x.pos = 0 ∧ x.cnt = 0 ∧ x.crv = .lin
  held : x.seg = .sustain ∨ x.seg = .done → x.tgt = x.lvl
  linear : x.crv = .lin → x.coef = fZero

theorem enterHold_progressOk {g : Seg} (hg : g = .sustain ∨ g = .done) (x : Voice) :
    (enterHold g x).ProgressOk where
  active := by rcases hg with rfl | rfl <;> simp
  ramp := by rcases hg with rfl | rfl <;> simp [Seg.isRamp]
  hold := by simp
  held := by simp
  linear := by simp

theorem enterRamp_progressOk {e : F32} {g : Seg} (hg : g.isRamp = true) {n : Word} (hn : n ≠ 0)
    (hs : 0 ≤ sext32 n) (t : F32) (x : Voice) : (enterRamp e g n t x).ProgressOk where
  active := by rcases Seg.isRamp_eq_true.1 hg with rfl | rfl | rfl <;> simp
  ramp := by
    intro _
    simp only [enterRamp_pos, enterRamp_cnt]
    refine ⟨?_, hs⟩
    show (0#32).toNat < n.toNat
    have : n.toNat ≠ 0 := fun h => hn (BitVec.eq_of_toNat_eq h)
    simp; omega
  hold := by simp [hg]
  held := by rcases Seg.isRamp_eq_true.1 hg with rfl | rfl | rfl <;> simp
  linear := by simp only [enterRamp_crv, enterRamp_coef]; intro h; simp [h]

theorem enterRelease_progressOk {e : F32} {x : Voice} (h : 0 ≤ sext32 x.relRt) : (enterRelease e x).ProgressOk := by
  unfold enterRelease; split
  · exact enterHold_progressOk (.inr rfl) _
  · next hn => exact enterRamp_progressOk rfl hn h _ _

theorem enterDecay_progressOk {e : F32} {x : Voice} (h : 0 ≤ sext32 x.decRt) : (enterDecay e x).ProgressOk := by
  unfold enterDecay; split
  · exact enterHold_progressOk (.inl rfl) _
  · next hn => exact enterRamp_progressOk rfl hn h _ _

theorem enterAttack_progressOk {e : F32} {x : Voice} (h : 0 ≤ sext32 x.atkRt) (hd : 0 ≤ sext32 x.decRt) :
    (enterAttack e x).ProgressOk := by
  unfold enterAttack; split
  · exact enterDecay_progressOk hd
  · next hn => exact enterRamp_progressOk rfl hn h _ _

/-- Entering any segment but `IDLE` leaves the progress registers in order, when the rates are not negative. -/
theorem enterSeg_progressOk {e : F32} {g : Seg} (hg : g ≠ .idle) {x : Voice} (ha : 0 ≤ sext32 x.atkRt)
    (hd : 0 ≤ sext32 x.decRt) (hr : 0 ≤ sext32 x.relRt) : (enterSeg e g x).ProgressOk := by
  cases g
  · exact absurd rfl hg
  · exact enterAttack_progressOk ha hd
  · exact enterDecay_progressOk hd
  · exact enterHold_progressOk (.inl rfl) _
  · exact enterRelease_progressOk hr
  · exact enterHold_progressOk (.inr rfl) _

end Sys2Proof.Machine
end

