-- ==== Sys2Proof/Laws/Exec.lean ====
section
/-! SUPPORT. What any command can do, once for all commands. -/

namespace Sys2Proof.Machine

/-- What a command that is carried out leaves alone, whatever it is: the parameters, the capture, the port, the number of
contexts; while the table is valid and the command is not `TDOWN`, the session's constants; and every context it does
not name. -/
structure Carried (i : Instr) (s e : State) : Prop where
  params : e.params = s.params
  err : e.err = s.err
  errCause : e.errCause = s.errCause
  errCmd : e.errCmd = s.errCmd
  pending : e.pending = s.pending
  responses : e.responses = s.responses
  nv : e.nv = s.nv
  session : s.tblRdy = true → i ≠ .tdown →
    e.tblRdy = true ∧ e.tlen = s.tlen ∧ e.cosoffs = s.cosoffs ∧ e.frqti = s.frqti ∧ e.srate = s.srate
  voices : i ≠ .tdown → ∀ u, u ∉ i.voices → e.voice? u = s.voice? u

/-- The three ways a command can end: rejected, carried out, or `SAMPLE` stopped at a table that is not there. -/
def CommandShape (i : Instr) (s : State) (r : Result) : Prop :=
  (∃ c, c ≠ .ok ∧ r = .next (reject c (encode i) s)) ∨
  (∃ d e, r = .next (respond d e) ∧ Carried i s e) ∨
  r = .fault .tableRange

theorem Carried.refl (i : Instr) (s : State) : Carried i s s :=
  ⟨rfl, rfl, rfl, rfl, rfl, rfl, rfl, fun h _ => ⟨h, rfl, rfl, rfl, rfl⟩, fun _ _ _ => rfl⟩
theorem Carried.setVoice {i : Instr} (s : State) {v : VoiceNo} (x : Voice) (h : v ∈ i.voices) :
    Carried i s (s.setVoice v x) :=
  ⟨rfl, rfl, rfl, rfl, rfl, rfl, by simp, fun h _ => ⟨h, rfl, rfl, rfl, rfl⟩, fun _ _ hu =>
     State.voice?_setVoice_ne s (by rintro rfl; exact hu h) x⟩
theorem Carried.defs (i : Instr) (s : State) (d : DefRecord) : Carried i s { s with defs := d } :=
  ⟨rfl, rfl, rfl, rfl, rfl, rfl, rfl, fun h _ => ⟨h, rfl, rfl, rfl, rfl⟩, fun _ _ _ => rfl⟩

theorem shape_rejected {i : Instr} {s : State} (c : Status) (h : c ≠ .ok) :
    CommandShape i s (rejected c i s) :=
  .inl ⟨c, h, rfl⟩
theorem shape_done {i : Instr} {s : State} (d : Word) (e : State) (h : Carried i s e) :
    CommandShape i s (done d e) :=
  .inr (.inl ⟨d, e, rfl, h⟩)

theorem shape_withVoice {v : VoiceNo} {i : Instr} {s : State} {k : Voice → Result}
    (h : ∀ x, s.voice? v = some x → CommandShape i s (k x)) :
    CommandShape i s (withVoice v i s k) := by
  cases hv : s.voice? v with
  | none => rw [withVoice_none hv]; exact shape_rejected _ (by decide)
  | some x => rw [withVoice_some hv]; exact h x hv


theorem shape_setDefinition {i : Instr} {v : VoiceNo} (k : DefWord) (w : Word) (s : State) (h : v ∈ i.voices) :
    CommandShape i s (setDefinition k i v w s) := by
  refine shape_withVoice fun _ _ => ?_
  split
  · exact shape_done _ _ (Carried.setVoice _ _ h)
  · next h' => exact shape_rejected _ h'

theorem shape_setCoefficient {i : Instr} {v : VoiceNo} (t : Tap) (w : Word) (s : State) (h : v ∈ i.voices) :
    CommandShape i s (setCoefficient t i v w s) :=
  shape_withVoice fun _ _ => shape_done _ _ (Carried.setVoice _ _ h)

/-- What any command can do (60_exceptions R253, R254; 10_state R31). -/
theorem exec_shape (i : Instr) (s : State) : CommandShape i s (exec i s) := by
  cases i <;> simp only [exec]
  case tinit n =>
    unfold execTinit
    split
    · exact shape_rejected _ (by decide)
    next h =>
    split
    · exact shape_rejected _ (by decide)
    split
    · exact shape_rejected _ (by decide)
    · exact shape_done _ _ ⟨rfl, rfl, rfl, rfl, rfl, rfl, rfl, fun h' => absurd h' h, fun _ _ _ => rfl⟩
  case tdown => exact shape_done _ _ ⟨rfl, rfl, rfl, rfl, rfl, rfl, tearDown_nv s,
    fun _ h => absurd rfl h, fun h => absurd rfl h⟩
  case setsr r =>
    unfold execSetsr
    split
    · exact shape_rejected _ (by decide)
    next h =>
    split
    · exact shape_done _ _ ⟨rfl, rfl, rfl, rfl, rfl, rfl, rfl, fun h' => absurd h' h, fun _ _ _ => rfl⟩
    · exact shape_rejected _ (by decide)
  case tlook n =>
    unfold execTlook
    split
    · exact shape_rejected _ (by decide)
    split
    · exact shape_rejected _ (by decide)
    split
    · exact shape_rejected _ (by decide)
    · exact shape_done _ _ (Carried.refl _ _)
  case getg g => exact shape_done _ _ (Carried.refl _ _)
  case finit v =>
    refine shape_withVoice fun _ _ => ?_
    split
    · exact shape_rejected _ (by decide)
    split
    · next h => exact shape_rejected _ h
    · exact shape_done _ _ (Carried.setVoice _ _ (by simp [Instr.voices]))
  case freset v ph =>
    refine shape_withVoice fun _ _ => ?_
    split
    · exact shape_rejected _ (by decide)
    · exact shape_done _ _ (Carried.setVoice _ _ (by simp [Instr.voices]))
  case release v =>
    refine shape_withVoice fun _ _ => ?_
    split
    · exact shape_rejected _ (by decide)
    · exact shape_done _ _ (Carried.setVoice _ _ (by simp [Instr.voices]))
  case copy vd vs =>
    refine shape_withVoice fun _ _ => shape_withVoice fun _ _ => ?_
    split
    · exact shape_done _ _ (Carried.refl _ _)
    · exact shape_done _ _ (Carried.setVoice _ _ (by simp [Instr.voices]))
  case sample v x =>
    refine shape_withVoice fun _ _ => ?_
    split
    · exact shape_rejected _ (by decide)
    split
    · exact shape_rejected _ (by decide)
    dsimp only
    split
    · split
      · exact .inr (.inr rfl)
      · exact shape_done _ _ (Carried.setVoice _ _ (by simp [Instr.voices]))
    · exact shape_done _ _ (Carried.setVoice _ _ (by simp [Instr.voices]))
  case bqsamp v x => exact shape_withVoice fun _ _ => shape_done _ _ (Carried.setVoice _ _ (by simp [Instr.voices]))
  case egen v =>
    refine shape_withVoice fun _ _ => ?_
    split
    · exact shape_rejected _ (by decide)
    · exact shape_done _ _ (Carried.setVoice _ _ (by simp [Instr.voices]))
  case getp v p => exact shape_withVoice fun _ _ => shape_done _ _ (Carried.refl _ _)
  case defwr => exact shape_done _ _ (Carried.defs _ _ _)
  case defrd => exact shape_done _ _ (Carried.refl _ _)
  case getenvdef v => exact shape_withVoice fun _ _ => shape_done _ _ (Carried.defs _ _ _)
  case setenvdef v =>
    refine shape_withVoice fun _ _ => ?_
    split
    · exact shape_done _ _ (Carried.setVoice _ _ (by simp [Instr.voices]))
    · next h => exact shape_rejected _ h
  all_goals first
    | exact shape_setDefinition _ _ _ (by simp [Instr.voices])
    | exact shape_setCoefficient _ _ _ (by simp [Instr.voices])

end Sys2Proof.Machine
end

