-- ==== Sys2Proof/Laws/PerInstr.lean ====
section
/-! SUPPORT. The families of statements made once per command. -/

namespace Sys2Proof.Laws

/-- The word of a command matches its row of the opcode table under the row's mask and has none of the row's
must-be-zero bits (30_encoding R96). -/
def TableRow.Statement (i : Instr) : Prop :=
  encode i &&& i.row.mask = i.row.pattern ∧ encode i &&& i.row.mbz = 0

/-- A packed word under a mask, field by field. -/
theorem packCmd_and (op m : BitVec 8) (v m₁ : VoiceNo) (a m₂ z : BitVec 8) (imm m₃ : Word) :
    packCmd op v a imm &&& (m ++ m₁ ++ m₂ ++ z ++ m₃) = packCmd (op &&& m) (v &&& m₁) (a &&& m₂) (imm &&& m₃) := by
  show (op ++ v ++ a ++ 0#8 ++ imm) &&& (m ++ m₁ ++ m₂ ++ z ++ m₃) = _
  rw [BitVec.and_append, BitVec.and_append, BitVec.and_append, BitVec.and_append, BitVec.zero_and]
  rfl

theorem TableRow.tinit (len : Word) : TableRow.Statement (.tinit len) := by
  refine ⟨(packCmd_and _ 0xFF _ 0 _ 0 0 _ 0).trans ?_, (packCmd_and _ 0 _ 0xFF _ 0xFF 0xFF _ 0).trans ?_⟩ <;>
    simp <;> rfl

theorem TableRow.tdown : TableRow.Statement (.tdown) := by
  refine ⟨(packCmd_and _ 0xFF _ 0 _ 0 0 _ 0).trans ?_, (packCmd_and _ 0 _ 0xFF _ 0xFF 0xFF _ 0xFFFFFFFF).trans ?_⟩ <;>
    simp <;> rfl

theorem TableRow.setsr (rate : F32) : TableRow.Statement (.setsr rate) := by
  refine ⟨(packCmd_and _ 0xFF _ 0 _ 0 0 _ 0).trans ?_, (packCmd_and _ 0 _ 0xFF _ 0xFF 0xFF _ 0).trans ?_⟩ <;>
    simp <;> rfl

theorem TableRow.tlook (index : Word) : TableRow.Statement (.tlook index) := by
  refine ⟨(packCmd_and _ 0xFF _ 0 _ 0 0 _ 0).trans ?_, (packCmd_and _ 0 _ 0xFF _ 0xFF 0xFF _ 0).trans ?_⟩ <;>
    simp <;> rfl

theorem TableRow.getg (g : GReg) : TableRow.Statement (.getg g) := by
  refine ⟨(packCmd_and _ 0xFF _ 0 _ 0 0 _ 0).trans ?_, (packCmd_and _ 0 _ 0xFF _ 0 0xFF _ 0xFFFFFFFF).trans ?_⟩ <;>
    simp <;> rfl

theorem TableRow.finit (v : VoiceNo) : TableRow.Statement (.finit v) := by
  refine ⟨(packCmd_and _ 0xFF _ 0 _ 0 0 _ 0).trans ?_, (packCmd_and _ 0 _ 0 _ 0xFF 0xFF _ 0xFFFFFFFF).trans ?_⟩ <;>
    simp <;> rfl

theorem TableRow.freset (v : VoiceNo) (ph : Word) : TableRow.Statement (.freset v ph) := by
  refine ⟨(packCmd_and _ 0xFF _ 0 _ 0 0 _ 0).trans ?_, (packCmd_and _ 0 _ 0 _ 0xFF 0xFF _ 0).trans ?_⟩ <;>
    simp <;> rfl

theorem TableRow.release (v : VoiceNo) : TableRow.Statement (.release v) := by
  refine ⟨(packCmd_and _ 0xFF _ 0 _ 0 0 _ 0).trans ?_, (packCmd_and _ 0 _ 0 _ 0xFF 0xFF _ 0xFFFFFFFF).trans ?_⟩ <;>
    simp <;> rfl

theorem TableRow.copy (vd : VoiceNo) (vs : VoiceNo) : TableRow.Statement (.copy vd vs) := by
  refine ⟨(packCmd_and _ 0xFF _ 0 _ 0 0 _ 0).trans ?_, (packCmd_and _ 0 _ 0 _ 0 0xFF _ 0xFFFFFFFF).trans ?_⟩ <;>
    simp <;> rfl

theorem TableRow.sample (v : VoiceNo) (x : F32) : TableRow.Statement (.sample v x) := by
  refine ⟨(packCmd_and _ 0xFF _ 0 _ 0 0 _ 0).trans ?_, (packCmd_and _ 0 _ 0 _ 0xFF 0xFF _ 0).trans ?_⟩ <;>
    simp <;> rfl

theorem TableRow.bqsamp (v : VoiceNo) (x : F32) : TableRow.Statement (.bqsamp v x) := by
  refine ⟨(packCmd_and _ 0xFF _ 0 _ 0 0 _ 0).trans ?_, (packCmd_and _ 0 _ 0 _ 0xFF 0xFF _ 0).trans ?_⟩ <;>
    simp <;> rfl

theorem TableRow.egen (v : VoiceNo) : TableRow.Statement (.egen v) := by
  refine ⟨(packCmd_and _ 0xFF _ 0 _ 0 0 _ 0).trans ?_, (packCmd_and _ 0 _ 0 _ 0xFF 0xFF _ 0xFFFFFFFF).trans ?_⟩ <;>
    simp <;> rfl

theorem TableRow.setstart (v : VoiceNo) (w : Word) : TableRow.Statement (.setstart v w) := by
  refine ⟨(packCmd_and _ 0xFF _ 0 _ 0xFF 0 _ 0).trans ?_, (packCmd_and _ 0 _ 0 _ 0 0xFF _ 0).trans ?_⟩ <;>
    simp <;> rfl

theorem TableRow.setatkrt (v : VoiceNo) (w : Word) : TableRow.Statement (.setatkrt v w) := by
  refine ⟨(packCmd_and _ 0xFF _ 0 _ 0xFF 0 _ 0).trans ?_, (packCmd_and _ 0 _ 0 _ 0 0xFF _ 0).trans ?_⟩ <;>
    simp <;> rfl

theorem TableRow.setatklvl (v : VoiceNo) (w : Word) : TableRow.Statement (.setatklvl v w) := by
  refine ⟨(packCmd_and _ 0xFF _ 0 _ 0xFF 0 _ 0).trans ?_, (packCmd_and _ 0 _ 0 _ 0 0xFF _ 0).trans ?_⟩ <;>
    simp <;> rfl

theorem TableRow.setdecrt (v : VoiceNo) (w : Word) : TableRow.Statement (.setdecrt v w) := by
  refine ⟨(packCmd_and _ 0xFF _ 0 _ 0xFF 0 _ 0).trans ?_, (packCmd_and _ 0 _ 0 _ 0 0xFF _ 0).trans ?_⟩ <;>
    simp <;> rfl

theorem TableRow.setsuslvl (v : VoiceNo) (w : Word) : TableRow.Statement (.setsuslvl v w) := by
  refine ⟨(packCmd_and _ 0xFF _ 0 _ 0xFF 0 _ 0).trans ?_, (packCmd_and _ 0 _ 0 _ 0 0xFF _ 0).trans ?_⟩ <;>
    simp <;> rfl

theorem TableRow.setrelrt (v : VoiceNo) (w : Word) : TableRow.Statement (.setrelrt v w) := by
  refine ⟨(packCmd_and _ 0xFF _ 0 _ 0xFF 0 _ 0).trans ?_, (packCmd_and _ 0 _ 0 _ 0 0xFF _ 0).trans ?_⟩ <;>
    simp <;> rfl

theorem TableRow.setrellvl (v : VoiceNo) (w : Word) : TableRow.Statement (.setrellvl v w) := by
  refine ⟨(packCmd_and _ 0xFF _ 0 _ 0xFF 0 _ 0).trans ?_, (packCmd_and _ 0 _ 0 _ 0 0xFF _ 0).trans ?_⟩ <;>
    simp <;> rfl

theorem TableRow.settype (v : VoiceNo) (w : Word) : TableRow.Statement (.settype v w) := by
  refine ⟨(packCmd_and _ 0xFF _ 0 _ 0xFF 0 _ 0).trans ?_, (packCmd_and _ 0 _ 0 _ 0 0xFF _ 0).trans ?_⟩ <;>
    simp <;> rfl

theorem TableRow.setgain (v : VoiceNo) (w : Word) : TableRow.Statement (.setgain v w) := by
  refine ⟨(packCmd_and _ 0xFF _ 0 _ 0xFF 0 _ 0).trans ?_, (packCmd_and _ 0 _ 0 _ 0 0xFF _ 0).trans ?_⟩ <;>
    simp <;> rfl

theorem TableRow.setftype (v : VoiceNo) (w : Word) : TableRow.Statement (.setftype v w) := by
  refine ⟨(packCmd_and _ 0xFF _ 0 _ 0xFF 0 _ 0).trans ?_, (packCmd_and _ 0 _ 0 _ 0 0xFF _ 0).trans ?_⟩ <;>
    simp <;> rfl

theorem TableRow.setin0 (v : VoiceNo) (w : Word) : TableRow.Statement (.setin0 v w) := by
  refine ⟨(packCmd_and _ 0xFF _ 0 _ 0xFF 0 _ 0).trans ?_, (packCmd_and _ 0 _ 0 _ 0 0xFF _ 0).trans ?_⟩ <;>
    simp <;> rfl

theorem TableRow.setin1 (v : VoiceNo) (w : Word) : TableRow.Statement (.setin1 v w) := by
  refine ⟨(packCmd_and _ 0xFF _ 0 _ 0xFF 0 _ 0).trans ?_, (packCmd_and _ 0 _ 0 _ 0 0xFF _ 0).trans ?_⟩ <;>
    simp <;> rfl

theorem TableRow.setin2 (v : VoiceNo) (w : Word) : TableRow.Statement (.setin2 v w) := by
  refine ⟨(packCmd_and _ 0xFF _ 0 _ 0xFF 0 _ 0).trans ?_, (packCmd_and _ 0 _ 0 _ 0 0xFF _ 0).trans ?_⟩ <;>
    simp <;> rfl

theorem TableRow.setout1 (v : VoiceNo) (w : Word) : TableRow.Statement (.setout1 v w) := by
  refine ⟨(packCmd_and _ 0xFF _ 0 _ 0xFF 0 _ 0).trans ?_, (packCmd_and _ 0 _ 0 _ 0 0xFF _ 0).trans ?_⟩ <;>
    simp <;> rfl

theorem TableRow.setout2 (v : VoiceNo) (w : Word) : TableRow.Statement (.setout2 v w) := by
  refine ⟨(packCmd_and _ 0xFF _ 0 _ 0xFF 0 _ 0).trans ?_, (packCmd_and _ 0 _ 0 _ 0 0xFF _ 0).trans ?_⟩ <;>
    simp <;> rfl

theorem TableRow.getp (v : VoiceNo) (p : VReg) : TableRow.Statement (.getp v p) := by
  refine ⟨(packCmd_and _ 0xFF _ 0 _ 0 0 _ 0).trans ?_, (packCmd_and _ 0 _ 0 _ 0 0xFF _ 0xFFFFFFFF).trans ?_⟩ <;>
    simp <;> rfl

theorem TableRow.defwr (k : DefWord) (w : Word) : TableRow.Statement (.defwr k w) := by
  refine ⟨(packCmd_and _ 0xFF _ 0 _ 0 0 _ 0).trans ?_, (packCmd_and _ 0 _ 0xFF _ 0 0xFF _ 0).trans ?_⟩ <;>
    simp <;> rfl

theorem TableRow.defrd (k : DefWord) : TableRow.Statement (.defrd k) := by
  refine ⟨(packCmd_and _ 0xFF _ 0 _ 0 0 _ 0).trans ?_, (packCmd_and _ 0 _ 0xFF _ 0 0xFF _ 0xFFFFFFFF).trans ?_⟩ <;>
    simp <;> rfl

theorem TableRow.getenvdef (v : VoiceNo) : TableRow.Statement (.getenvdef v) := by
  refine ⟨(packCmd_and _ 0xFF _ 0 _ 0 0 _ 0).trans ?_, (packCmd_and _ 0 _ 0 _ 0xFF 0xFF _ 0xFFFFFFFF).trans ?_⟩ <;>
    simp <;> rfl

theorem TableRow.setenvdef (v : VoiceNo) : TableRow.Statement (.setenvdef v) := by
  refine ⟨(packCmd_and _ 0xFF _ 0 _ 0 0 _ 0).trans ?_, (packCmd_and _ 0 _ 0 _ 0xFF 0xFF _ 0xFFFFFFFF).trans ?_⟩ <;>
    simp <;> rfl

end Sys2Proof.Laws
end

