-- ==== Sys2Proof/Tests/Slice0.lean ====
section
/-! SUPPORT. Tests of the model: the well-formedness checks, a word written out for every command, steps of every
command against the spec's vectors (95_test_vectors, named in the comments), and states that meet the hypotheses of
the statements. -/

namespace Sys2Proof.Tests

open Sys2Proof Sys2Proof.Machine

set_option Elab.async false

/-! ## Helpers -/

def isNext (r : Result) : Bool :=
  match r with
  | .next _ => true
  | .fault _ => false
  | .refused _ => false

theorem exists_next {r : Result} (h : isNext r = true) : ∃ t, r = .next t := by
  cases r with
  | next t => exact ⟨t, rfl⟩
  | fault f => cases h
  | refused f => cases h

/-- The response given last. -/
def answer (r : Result) : Option Response :=
  match r with
  | .next t => t.responses.head?
  | .fault _ => none
  | .refused _ => none

/-- A voice register after the command, read as `GETP` reads it. -/
def reg (v : VoiceNo) (p : VReg) (r : Result) : Option Word :=
  match r with
  | .next t => (t.voice? v).map (·.get p)
  | .fault _ => none
  | .refused _ => none

/-- A global register after the command, read as `GETG` reads it. -/
def glob (g : GReg) (r : Result) : Option Word :=
  match r with
  | .next t => some (t.getGlobal g)
  | .fault _ => none
  | .refused _ => none

def okWith (d : Word) : Option Response := some { status := .ok, data := d }
def rejectedWith (c : Status) : Option Response := some { status := c, data := 0 }

/-- The word decodes to the command. -/
def reads (w : Cmd) (i : Instr) : Bool :=
  match decode 4 w with
  | .ok j => decide (j = i)
  | .error _ => false

theorem decode_of_reads {w : Cmd} {i : Instr} (h : reads w i = true) : decode 4 w = .ok i := by
  unfold reads at h
  split at h
  · next j hj => rw [hj, of_decide_eq_true h]
  · cases h

/-- The word is rejected with the cause. -/
def refuses (w : Cmd) (c : Status) : Bool :=
  match decode 4 w with
  | .ok _ => false
  | .error d => decide (d = c)

theorem decode_of_refuses {w : Cmd} {c : Status} (h : refuses w c = true) : decode 4 w = .error c := by
  unfold refuses at h
  split at h
  · cases h
  · next d hd => rw [hd, of_decide_eq_true h]

/-- The envelope of vector X2: start 0.0, attack 4 to 1.0, decay 3 to 0.5, release 2 to 0.0. -/
def shape : Voice :=
  { Voice.reset with
    atkRt := 4, atkLvl := 0x3F800000, decRt := 3, susLvl := 0x3F000000, relRt := 2, gain := 0x3F800000 }

def ramping (g : Seg) (pos cnt : Word) (lvl tgt : F32) : Voice :=
  { shape with seg := g, pos := pos, cnt := cnt, lvl := lvl, tgt := tgt }

def holding (g : Seg) (lvl : F32) : Voice :=
  { shape with seg := g, lvl := lvl, tgt := lvl }

/-- An exponential attack, as in vector P2 (`COEF = fdiv(5.0, 6.0)`). -/
def expAttack : Voice :=
  { ramping .attack 0 6 0x42C80000 0x447A0000 with atkRt := 6, curve := .exp, crv := .exp, coef := 0x3F555555 }

/-- The coefficients of vector X3, computed at index 1. -/
def cachedTaps : Taps :=
  { in0 := 0x3DC7F2CE, in1 := 0x3E47F2CE, in2 := 0x3DC7F2CE, out1 := 0xBF715BEE, out2 := 0x3EAAAAAA }

/-- The record of vector X2. -/
def record : DefRecord :=
  { DefRecord.reset with atkRt := 4, atkLvl := 0x3F800000, decRt := 3, susLvl := 0x3F000000, relRt := 2 }

/-- A block with the table of vector X3 (`TLEN = 16`, `SRATE = 8.0`, `FRQTI = 1.0`) and voices in every state. -/
def base : State :=
  { State.reset with
    tblRdy := true, tlen := 16, srate := 0x41000000, frqti := 0x3F800000, cosoffs := 4
    defs := record
    voices :=
      [Voice.reset,
       ramping .attack 0 4 0 0x3F800000,
       ramping .decay 2 3 0x3F2AAAAA 0x3F000000,
       holding .sustain 0x3FC00000,
       ramping .release 0 2 0x3F000000 0,
       holding .done 0x3F000000,
       { holding .sustain 0x3FC00000 with taps := cachedTaps, lastIdx := 1 },
       { holding .sustain 0x40800000 with relRt := 0 },
       { ramping .attack 3 4 0x3F400000 0x3F800000 with decRt := 0 },
       ramping .attack 3 4 0x3F400000 0x3F800000,
       { holding .done 0x3F000000 with y1 := 0x7FC00000 },
       expAttack,
       ramping .attack 0 1 0 0x3F800000,
       { ramping .release 1 2 0x3F000000 0 with crv := .exp, coef := 0x3F800000 }] }

/-- The same block with no table and no initialised voice. -/
def bare : State := { State.reset with srate := 0x41000000, defs := record }

/-- A block whose first rejection has been captured. -/
def captured : State := { base with err := true, errCause := .notInit, errCmd := 0x200200003F400000 }

/-- The block with the given words presented. -/
def presenting (ws : List Cmd) (s : State) : State := { s with pending := ws.map .command }

/-! ## Well-formedness (R97 step 3) -/

theorem test_wf_refuses_voice : (Instr.sample 4 0).wf 4 = false := by decide
theorem test_wf_refuses_copy_destination : (Instr.copy 4 0).wf 4 = false := by decide
theorem test_wf_refuses_copy_source : (Instr.copy 0 4).wf 4 = false := by decide
theorem test_wf_accepts_last_voice : (Instr.copy 3 3).wf 4 = true := by decide

/-! ## A word for every command, written out from R91 and R95: op, v, a, z, imm -/

theorem test_decode_table_commands :
    reads 0x0100000000000010 (.tinit 16) ∧ reads 0x0200000000000000 .tdown ∧
    reads 0x0300000041000000 (.setsr 0x41000000) ∧ reads 0x040000000000000F (.tlook 15) ∧
    reads 0x0500090000000000 (.getg .lmaxr) := by decide

theorem test_decode_voice_commands :
    reads 0x1003000000000000 (.finit 3) ∧ reads 0x1101000000000003 (.freset 1 3) ∧
    reads 0x1203000000000000 (.release 3) ∧ reads 0x1301000000000000 (.copy 1 0) ∧
    reads 0x20030000BF000000 (.sample 3 0xBF000000) ∧
    reads 0x210200003F800000 (.bqsamp 2 0x3F800000) ∧
    reads 0x2201000000000000 (.egen 1) := by decide

theorem test_decode_definition_setters :
    reads 0x300000003F800000 (.setstart 0 0x3F800000) ∧ reads 0x3002010000000064 (.setatkrt 2 100) ∧
    reads 0x300002003F800000 (.setatklvl 0 0x3F800000) ∧ reads 0x3000030000000005 (.setdecrt 0 5) ∧
    reads 0x300004003F000000 (.setsuslvl 0 0x3F000000) ∧ reads 0x3000050000000002 (.setrelrt 0 2) ∧
    reads 0x3000060000000000 (.setrellvl 0 0) ∧ reads 0x3000070000000001 (.settype 0 1) ∧
    reads 0x300008003F800000 (.setgain 0 0x3F800000) ∧ reads 0x3000090000000000 (.setftype 0 0) := by
  decide

theorem test_decode_coefficient_setters :
    reads 0x300210003DC7F2CE (.setin0 2 0x3DC7F2CE) ∧ reads 0x300211003E47F2CE (.setin1 2 0x3E47F2CE) ∧
    reads 0x300212003DC7F2CE (.setin2 2 0x3DC7F2CE) ∧ reads 0x30021300BF715BEE (.setout1 2 0xBF715BEE) ∧
    reads 0x300214003EAAAAAA (.setout2 2 0x3EAAAAAA) := by decide

theorem test_decode_access_commands :
    reads 0x3100210000000000 (.getp 0 .lvl) ∧ reads 0x31021A0000000000 (.getp 2 .y1) ∧
    reads 0x380008003F800000 (.defwr .gain 0x3F800000) ∧ reads 0x3900090000000000 (.defrd .ftype) ∧
    reads 0x3A01000000000000 (.getenvdef 1) ∧ reads 0x3B03000000000000 (.setenvdef 3) := by decide

/-- 96_test_vectors_derived D2: the first failing check decides. -/
theorem test_decode_priority :
    refuses 0x0609000100000000 .illegalOp ∧ refuses 0x200900013F800000 .rsvdField ∧
    refuses 0x31090A0000000000 .badVoice ∧ refuses 0x30000A0000000002 .badSelector := by decide

theorem test_decode_table_word :
    decodeTableWord 64 0x200000003F800000 = some (.sample 0 0x3F800000) ∧ decodeTableWord 64 0 = none := by decide

/-! ## Arithmetic (R18), worked by hand -/

theorem test_fadd_ties_to_even : fadd 0x4B800000 0x3F800000 = 0x4B800000 ∧ fadd 0x4B800001 0x3F800000 = 0x4B800002 := by
  decide +kernel
theorem test_fmul_underflows_gradually : fmul 0x00800000 0x3F000000 = 0x00400000 ∧ fmul 1 0x3F000000 = 0 := by
  decide +kernel
theorem test_fdiv_third : fdiv 0x3F800000 0x40400000 = 0x3EAAAAAB ∧ fdiv 0x3F800000 0x80000000 = 0xFF800000 := by
  decide +kernel
theorem test_i2f_rounds : i2f 16777217 = 0x4B800000 ∧ i2f (-1) = 0xBF800000 := by decide +kernel

/-! ## One step of every command -/

/-- X1: `SETSR 8.0`; R121: a rate of zero. -/
theorem test_setsr : glob .srate (exec (.setsr 0x41000000) State.reset) = some 0x41000000 ∧
    answer (exec (.setsr 0) State.reset) = rejectedWith .cfgSrate := by decide +kernel
/-- X3: `TINIT 16` after `SETSR 8.0`. -/
theorem test_tinit : glob .frqti (exec (.tinit 16) bare) = some 0x3F800000 ∧
    glob .cosoffs (exec (.tinit 16) bare) = some 4 := by decide +kernel
theorem test_tinit_rejects : answer (exec (.tinit 24) bare) = rejectedWith .cfgTableLen ∧
    answer (exec (.tinit 16) State.reset) = rejectedWith .cfgSrate := by decide +kernel
/-- X1: entries 3 and 13. -/
theorem test_tlook : answer (exec (.tlook 3) base) = okWith 0x3F6C835E ∧
    answer (exec (.tlook 13) base) = okWith 0xBF6C835E := by decide +kernel
theorem test_tlook_rejects : answer (exec (.tlook 16) base) = rejectedWith .tblIndex ∧
    answer (exec (.tlook 0xFFFFFFFF) base) = rejectedWith .tblIndex := by decide +kernel
/-- D3: the capture survives `TDOWN`. -/
theorem test_tdown : glob .status (exec .tdown captured) = some 2 ∧
    glob .errCmdHi (exec .tdown captured) = some 0x20020000 := by decide +kernel
/-- P4, rows 24 to 27. -/
theorem test_getg : answer (exec (.getg .status) captured) = okWith 3 ∧
    answer (exec (.getg .errCmdLo) captured) = okWith 0x3F400000 := by decide +kernel
/-- X2, row 10. -/
theorem test_finit : reg 0 .seg (exec (.finit 0) base) = some 1 ∧ reg 0 .cnt (exec (.finit 0) base) = some 4 := by
  decide +kernel
theorem test_finit_rejects : answer (exec (.finit 0) bare) = rejectedWith .tblNotReady := by decide +kernel
/-- X2: four steps from the start reach the decay; five move it to 0.8333333. -/
theorem test_freset : reg 5 .seg (exec (.freset 5 4) base) = some 2 ∧
    reg 5 .lvl (exec (.freset 5 5) base) = some 0x3F555555 := by decide +kernel
/-- X2, row 19. -/
theorem test_release : reg 3 .seg (exec (.release 3) base) = some 4 ∧ reg 3 .cnt (exec (.release 3) base) = some 2 := by
  decide +kernel
theorem test_copy : reg 0 .lastIdx (exec (.copy 0 6) base) = some 1 ∧
    reg 6 .lastIdx (exec (.copy 6 0) base) = some 0xFFFFFFFF := by decide +kernel
/-- X3, row 11: the first sample computes the coefficients. -/
theorem test_sample : answer (exec (.sample 3 0x3F800000) base) = okWith 0x3DC7F2CE ∧
    reg 3 (.tap .out1) (exec (.sample 3 0x3F800000) base) = some 0xBF715BEE := by decide +kernel
/-- X4: the level 4.0 is bypassed; the index is not written. -/
theorem test_sample_bypass : answer (exec (.sample 7 0x3F800001) base) = okWith 0x3F800001 ∧
    reg 7 .lastIdx (exec (.sample 7 0x3F800001) base) = some 0xFFFFFFFF := by decide +kernel
/-- P1, row 11: the first sample of a clear history is `fmul(IN0, x)`. -/
theorem test_bqsamp : answer (exec (.bqsamp 6 0x3F800000) base) = okWith 0x3DC7F2CE ∧
    reg 6 .y1 (exec (.bqsamp 6 0x3F800000) base) = some 0x3DC7F2CE := by decide +kernel
/-- X2, row 11; P2, rows 14 and 15. -/
theorem test_egen : reg 1 .lvl (exec (.egen 1) base) = some 0x3E800000 ∧
    reg 11 .lvl (exec (.egen 11) base) = some 0x44548000 := by decide +kernel
/-- X2, row 17: the last decay step lands on the sustain level. -/
theorem test_egen_completes : reg 2 .seg (exec (.egen 2) base) = some 3 ∧
    reg 2 .lvl (exec (.egen 2) base) = some 0x3F000000 := by decide +kernel
theorem test_setstart : reg 0 (.defn .startLvl) (exec (.setstart 0 0x3F800000) base) = some 0x3F800000 := by decide
theorem test_setatkrt : reg 0 (.defn .atkRt) (exec (.setatkrt 0 100) base) = some 100 ∧
    answer (exec (.setatkrt 0 0xFFFFFFFF) base) = rejectedWith .cfgRate := by decide
theorem test_setatklvl : reg 0 (.defn .atkLvl) (exec (.setatklvl 0 0x3F800000) base) = some 0x3F800000 := by decide
theorem test_setdecrt : reg 0 (.defn .decRt) (exec (.setdecrt 0 5) base) = some 5 ∧
    answer (exec (.setdecrt 0 0x80000000) base) = rejectedWith .cfgRate := by decide
theorem test_setsuslvl : reg 0 (.defn .susLvl) (exec (.setsuslvl 0 0x3F000000) base) = some 0x3F000000 := by decide
theorem test_setrelrt : reg 0 (.defn .relRt) (exec (.setrelrt 0 2) base) = some 2 ∧
    answer (exec (.setrelrt 0 0xFFFFFFFF) base) = rejectedWith .cfgRate := by decide
theorem test_setrellvl : reg 0 (.defn .relLvl) (exec (.setrellvl 0 0x3F000000) base) = some 0x3F000000 := by decide
theorem test_settype : reg 0 (.defn .curve) (exec (.settype 0 1) base) = some 1 ∧
    answer (exec (.settype 0 2) base) = rejectedWith .badValue := by decide
theorem test_setgain : reg 0 (.defn .gain) (exec (.setgain 0 0x40000000) base) = some 0x40000000 := by decide
theorem test_setftype : answer (exec (.setftype 0 0) base) = okWith 0 ∧
    answer (exec (.setftype 0 1) base) = rejectedWith .badValue := by decide
theorem test_setin0 : reg 6 (.tap .in0) (exec (.setin0 6 0x3F800000) base) = some 0x3F800000 ∧
    reg 6 .lastIdx (exec (.setin0 6 0x3F800000) base) = some 0xFFFFFFFF := by decide
theorem test_setin1 : reg 6 (.tap .in1) (exec (.setin1 6 0x3F800000) base) = some 0x3F800000 := by decide
theorem test_setin2 : reg 6 (.tap .in2) (exec (.setin2 6 0x3F800000) base) = some 0x3F800000 := by decide
theorem test_setout1 : reg 6 (.tap .out1) (exec (.setout1 6 0x3F800000) base) = some 0x3F800000 := by decide
theorem test_setout2 : reg 6 (.tap .out2) (exec (.setout2 6 0x3F800000) base) = some 0x3F800000 := by decide
theorem test_getp : answer (exec (.getp 4 .seg) base) = okWith 4 ∧
    answer (exec (.getp 11 .coef) base) = okWith 0x3F555555 := by decide
theorem test_defwr : answer (exec (.defwr .atkRt 0xFFFFFFFF) base) = okWith 0 := by decide
theorem test_defrd : answer (exec (.defrd .gain) State.reset) = okWith 0x3F800000 := by decide
theorem test_getenvdef : (execAll [.getenvdef 11, .defrd .curve] base).bind (·.responses.head?) = okWith 1 := by decide
theorem test_setenvdef : reg 0 (.defn .decRt) (exec (.setenvdef 0) base) = some 3 ∧
    reg 0 (.defn .gain) (exec (.setenvdef 0) base) = some 0 := by decide
theorem test_step_runs_a_word :
    answer (step (presenting [0x0500090000000000] State.reset)) = okWith 0x00010000 ∧
    answer (step (State.reset.withFetchWord 64 0x0500080000000000)) = okWith 4 := by decide +kernel

/-! ## States that meet the statements' hypotheses -/

theorem test_base_ok : base.Ok := by
  refine
    { params := by decide +kernel, tlen := by decide +kernel, cosoffs := by decide +kernel
      frqti := by decide +kernel, srate := by decide +kernel, down := by decide +kernel, rate := by decide +kernel
      noError := by decide +kernel, error := by decide +kernel, voices := ?_ }
  intro x hx
  simp only [base, List.mem_cons, List.not_mem_nil, or_false] at hx
  rcases hx with rfl | rfl | rfl | rfl | rfl | rfl | rfl | rfl | rfl | rfl | rfl | rfl | rfl | rfl <;>
    exact
      { atkRt := by decide +kernel, decRt := by decide +kernel, relRt := by decide +kernel
        ramp := by decide +kernel, hold := by decide +kernel, held := by decide +kernel
        linear := by decide +kernel, cacheRange := by decide +kernel, cache := by decide +kernel
        ready := by decide +kernel }

theorem witness_EncodedCommandDecodesBack :
    (Instr.copy 255 0).wf 256 = true ∧ (Instr.getp 3 .coef).wf 4 = true ∧ (Instr.tinit 0xFFFFFFFF).wf 1 = true := by decide
theorem witness_AcceptedWordIsItsEncoding :
    decode 4 0x1303030000000000 = .ok (.copy 3 3) := decode_of_reads (by decide)
theorem witness_DecoderIsTotalAndOrdered :
    refuses 0 .illegalOp ∧ refuses 0x3900000000000001 .rsvdField ∧
    refuses 0x2204000000000000 .badVoice ∧ refuses 0x1300040000000000 .badVoice ∧
    refuses 0x05000A0000000000 .badSelector ∧ reads 0x3103260000000000 (.getp 3 .coef) := by decide
theorem witness_WordBelongsToOneRow :
    0x30FF14FFFFFFFFFF &&& (Instr.setout2 0 0).row.mask = (Instr.setout2 1 1).row.pattern ∧
    0x30FF14FFFFFFFFFF &&& (Instr.setout2 0 0).row.mbz ≠ 0 := by decide
theorem witness_LayoutIsLittleEndian : decode 4 0x3103260000000000 = .ok (.getp 3 .coef) :=
  decode_of_reads (by decide)
theorem witness_StepExecutesTheDecodedCommand :
    let s := presenting [0x2201000000000000, 0] bare
    s.legalParams = true ∧ s.pending = .command 0x2201000000000000 :: [.command 0] ∧
    decode s.nv 0x2201000000000000 = .ok (.egen 1) :=
  ⟨by decide +kernel, rfl, decode_of_reads (by decide)⟩
theorem witness_PlacedWordIsExecuted : base.legalParams = true ∧ (Instr.egen 13).wf base.nv = true := by decide +kernel
theorem witness_StepRejectsAnUndecodableWord :
    let s := presenting [0x0600000000000000] bare
    s.legalParams = true ∧ s.pending = .command 0x0600000000000000 :: [] ∧
    decode s.nv 0x0600000000000000 = .error .illegalOp :=
  ⟨by decide +kernel, rfl, decode_of_refuses (by decide)⟩
theorem witness_IdleBlockKeepsItsState : base.legalParams = true ∧ base.pending = [] := by decide +kernel
theorem witness_HardwareResetRestoresEveryRegister :
    ({ base with pending := [.hardReset] } : State).legalParams = true := by decide +kernel
theorem witness_IllegalParametersAreRefused :
    ({ base with voices := [] } : State).voices.length = 0 ∧
    ({ base with voices := List.replicate 257 Voice.reset } : State).voices.length = 257 ∧
    fgt 0x7FC00000 0 = false ∧ fgt 0x80000000 0 = false := by decide +kernel
theorem witness_EveryWordIsAnsweredOnce :
    ∃ t, step (presenting [0x2200000000000000] base) = .next t := exists_next (by decide +kernel)
theorem witness_EveryWordIsAnsweredOnce_rejected :
    answer (step (presenting [0x2200000000000000] base)) = rejectedWith .notInit := by decide +kernel
theorem witness_RejectedCommandIsPrecise :
    (∃ t, step (presenting [0x2200000000000000] base) = .next t) ∧
    answer (step (presenting [0x2200000000000000] base)) = rejectedWith .notInit ∧
    answer (step (presenting [0x0100000000000010] base)) = rejectedWith .tblLocked := by
  refine ⟨exists_next (by decide +kernel), ?_⟩
  decide +kernel
theorem witness_ErrorCaptureIsSticky :
    captured.err = true ∧ captured.pending.head? ≠ some .hardReset ∧
    ∃ t, step (presenting [0x0200000000000000] captured) = .next t := by
  refine ⟨rfl, by decide, exists_next (by decide +kernel)⟩

/-- The clauses of the checks before the table, at the boundaries of the lengths and of the rates. -/
theorem witness_OwnChecksInOrder_table :
    base.tblRdy = true ∧ bare.tblRdy = false ∧
    (fIsFinite 0x7F800000 = false ∧ fgt 0x80000000 0 = false) ∧
    ((2#32).toInt = 2 ^ 1 ∧ (0x20000#32).toInt = 2 ^ (bare.params.log2Lmax + 1)) ∧
    ((4#32).toInt = 2 ^ 2 ∧ fgt State.reset.srate 0 = false) ∧
    ((0xFFFFFFFF#32).toInt < 0 ∧ base.tlen.toInt ≤ (16#32).toInt) := by decide +kernel

/-- The clauses of the checks on a voice, at the boundaries of the words. -/
theorem witness_OwnChecksInOrder_voice :
    base.voice? 0 = some Voice.reset ∧ Voice.reset.seg = .idle ∧ base.tblRdy = true ∧
    (0x80000000#32).toInt < 0 ∧ (0xFFFFFFFF#32).toInt < 0 ∧ 1 < (2#32).toNat ∧ (1#32) ≠ 0 ∧
    ¬(base.defs.atkRt.toInt < 0 ∨ base.defs.decRt.toInt < 0 ∨ base.defs.relRt.toInt < 0) := by decide +kernel

theorem witness_PerSamplePathIsNeverRejected :
    base.Ok ∧ ∃ x, base.voice? 10 = some x ∧ x.seg ≠ .idle := by
  refine ⟨test_base_ok, _, rfl, by decide⟩
theorem witness_StepKeepsTheInvariant :
    ({ base with responses := [] } : State).Ok ∧ ∃ t, step base = .next t := by
  exact ⟨test_base_ok, exists_next (by decide +kernel)⟩
theorem witness_ResetSatisfiesTheInvariant :
    (State.resetWith Params.default 1).legalParams = true ∧ (State.resetWith Params.default 256).legalParams = true ∧
    (State.resetWith { log2Lmax := 24, sinRom := .other 7, expk := 1 } 4).legalParams = true := by decide +kernel
theorem witness_ReachableVoicesAreConsistent :
    (runSteps 4 { State.resetWith Params.default 4 with
      pending := [.command 0x0300000041000000, .command 0x0100000000000010, .command 0x1000000000000000,
        .command 0x2000000000000000] }).isSome = true := by decide +kernel
theorem witness_NoStepStops : base.Ok := test_base_ok
theorem witness_SessionConstantsStay :
    base.tblRdy = true ∧ Instr.finit 0 ≠ .tdown ∧ ∃ t, exec (.finit 0) base = .next t := by
  exact ⟨rfl, by decide, exists_next (by decide +kernel)⟩
theorem witness_UnnamedVoicesAreUntouched :
    Instr.copy 0 3 ≠ .tdown ∧ 1 ∉ (Instr.copy 0 3).voices ∧ ∃ t, exec (.copy 0 3) base = .next t := by
  exact ⟨by decide, by decide, exists_next (by decide +kernel)⟩
theorem witness_VoicesDoNotInterfere :
    (1 : VoiceNo) ≠ 3 ∧ (Instr.sample 1 0).voices = [1] ∧ Instr.sample 1 0 ≠ .getenvdef 1 ∧
    (∀ j ∈ [Instr.sample 3 0x3F800000, .copy 3 3], j.voices ≠ [] ∧ ∀ u ∈ j.voices, u = 3) ∧
    (∃ t, exec (.sample 1 0) base = .next t) ∧
    (execAll [.sample 3 0x3F800000, .copy 3 3] base).isSome = true := by
  exact ⟨by decide, by decide, by decide, by decide, exists_next (by decide +kernel), by decide +kernel⟩
theorem witness_SetsrStoresTheRate :
    bare.tblRdy = false ∧ fIsFinite 0x7F7FFFFF = true ∧ fgt 0x7F7FFFFF 0 = true ∧ fgt 1 0 = true := by decide +kernel
theorem witness_TinitBuildsTheTable :
    bare.tblRdy = false ∧ bare.params.log2Lmax ≤ 24 ∧ 2 ≤ bare.params.log2Lmax ∧
    fIsFinite bare.srate = true ∧ fgt bare.srate 0 = true := by decide +kernel
theorem witness_TlookReadsAnEntry :
    base.tblRdy = true ∧ 0 ≤ (0#32).toInt ∧ 0 ≤ (15#32).toInt ∧ (15#32).toInt < base.tlen.toInt := by decide
theorem witness_FinitInitialisesTheVoice :
    base.tblRdy = true ∧ base.voice? 0 = some Voice.reset ∧ 0 ≤ base.defs.atkRt.toInt ∧ 0 ≤ base.defs.decRt.toInt ∧
    0 ≤ base.defs.relRt.toInt ∧ base.defs.curve.toNat ≤ 1 ∧ base.defs.ftype = 0 := by decide
theorem witness_FresetRestartsTheEnvelope : ∃ x, base.voice? 11 = some x ∧ x.seg ≠ .idle := ⟨_, rfl, by decide⟩
theorem witness_FresetSkipsLikeEgen : ∃ x, base.voice? 13 = some x ∧ x.seg ≠ .idle := ⟨_, rfl, by decide⟩
theorem witness_FresetPhaseSaturates :
    ∃ x, base.voice? 1 = some x ∧ x.seg ≠ .idle ∧ x.atkRt.toNat + x.decRt.toNat < 2 ^ 32 := ⟨_, rfl, by decide, by decide⟩
theorem witness_ReleaseEntersTheReleaseSegment :
    (∃ x, base.voice? 1 = some x ∧ x.seg = .attack ∧ x.relRt ≠ 0) ∧
    (∃ x, base.voice? 7 = some x ∧ x.seg = .sustain ∧ x.relRt = 0) ∧
    (∃ x, base.voice? 4 = some x ∧ x.seg = .release) ∧ ∃ x, base.voice? 5 = some x ∧ x.seg = .done :=
  ⟨⟨_, rfl, by decide⟩, ⟨_, rfl, by decide⟩, ⟨_, rfl, by decide⟩, ⟨_, rfl, by decide⟩⟩
theorem witness_ReleaseIsContinuous :
    ∃ x, base.voice? 1 = some x ∧ x.seg ≠ .idle ∧ 0 < x.relRt.toInt := ⟨_, rfl, by decide, by decide⟩
theorem witness_CopyCopiesEveryRegister :
    (13 : VoiceNo).toNat < base.nv ∧ ∃ x, base.voice? 0 = some x := ⟨by decide, _, rfl⟩
theorem witness_CopyRoundTrip :
    (0 : VoiceNo).toNat < base.nv ∧ (11 : VoiceNo).toNat < base.nv ∧ ∃ t, exec (.copy 0 11) base = .next t :=
  ⟨by decide, by decide, exists_next (by decide +kernel)⟩
theorem witness_EgenStepsTheEnvelope :
    (∃ x, base.voice? 3 = some x ∧ x.seg = .sustain) ∧ (∃ x, base.voice? 5 = some x ∧ x.seg = .done) ∧
    (∃ x, base.voice? 1 = some x ∧ x.seg = .attack ∧ x.cnt - x.pos ≠ 1 ∧ x.crv = .lin) ∧
    ∃ x, base.voice? 11 = some x ∧ x.seg = .attack ∧ x.cnt - x.pos ≠ 1 ∧ x.crv = .exp :=
  ⟨⟨_, rfl, by decide⟩, ⟨_, rfl, by decide⟩, ⟨_, rfl, by decide⟩, ⟨_, rfl, by decide⟩⟩
theorem witness_EgenCompletesTheRamp :
    (∃ x, base.voice? 9 = some x ∧ x.cnt - x.pos = 1 ∧ x.seg = .attack ∧ x.decRt ≠ 0) ∧
    (∃ x, base.voice? 8 = some x ∧ x.cnt - x.pos = 1 ∧ x.seg = .attack ∧ x.decRt = 0) ∧
    (∃ x, base.voice? 2 = some x ∧ x.cnt - x.pos = 1 ∧ x.seg = .decay) ∧
    ∃ x, base.voice? 13 = some x ∧ x.cnt - x.pos = 1 ∧ x.seg = .release :=
  ⟨⟨_, rfl, by decide⟩, ⟨_, rfl, by decide⟩, ⟨_, rfl, by decide⟩, ⟨_, rfl, by decide⟩⟩
theorem witness_RampLastsItsCount :
    (∃ x, base.voice? 12 = some x ∧ x.seg = .attack ∧ x.pos = 0 ∧ x.cnt = 1) ∧
    (∃ x, base.voice? 4 = some x ∧ x.seg = .release ∧ x.pos = 0 ∧ x.cnt ≠ 0) ∧
    ∃ x, base.voice? 1 = some x ∧ x.seg = .attack ∧ x.pos = 0 ∧ x.cnt ≠ 0 :=
  ⟨⟨_, rfl, by decide⟩, ⟨_, rfl, by decide⟩, ⟨_, rfl, by decide⟩⟩
theorem witness_BqsampRunsTheDifferenceEquation : base.voice? 0 = some Voice.reset := rfl
theorem witness_NaNStaysInTheHistory : ∃ x, base.voice? 10 = some x ∧ fIsNaN x.y1 = true := ⟨_, rfl, by decide⟩
theorem witness_SampleBypassesOutOfRange :
    base.tblRdy = true ∧ ∃ x, base.voice? 7 = some x ∧ x.seg ≠ .idle ∧
      ¬(fge (fmul x.lvl base.frqti) 0 = true ∧ flt (fmul x.lvl base.frqti) (i2f base.cosoffs.toInt) = true) :=
  ⟨rfl, _, rfl, by decide, by decide +kernel⟩
theorem witness_SampleRecomputesOnANewIndex :
    base.Ok ∧ ∃ x, base.voice? 3 = some x ∧ x.seg ≠ .idle ∧ fge (fmul x.lvl base.frqti) 0 = true ∧
      flt (fmul x.lvl base.frqti) (i2f base.cosoffs.toInt) = true ∧
      x.lastIdx ≠ BitVec.ofNat 32 (floorIdx (fmul x.lvl base.frqti)) :=
  ⟨test_base_ok, _, rfl, by decide, by decide +kernel, by decide +kernel, by decide +kernel⟩
theorem witness_SampleReusesTheCachedIndex :
    base.tblRdy = true ∧ ∃ x, base.voice? 6 = some x ∧ x.seg ≠ .idle ∧ fge (fmul x.lvl base.frqti) 0 = true ∧
      flt (fmul x.lvl base.frqti) (i2f base.cosoffs.toInt) = true ∧
      x.lastIdx = BitVec.ofNat 32 (floorIdx (fmul x.lvl base.frqti)) :=
  ⟨rfl, _, rfl, by decide, by decide +kernel, by decide +kernel, by decide +kernel⟩
/-- Zero, minus zero, the largest pattern below `COSOFFS`, `COSOFFS` and the smallest pattern below zero. -/
theorem witness_RangeCheckIsTheFloorTest :
    base.Ok ∧ base.tblRdy = true ∧ base.inRange 0 = true ∧ base.inRange 0x80000000 = true ∧
    base.inRange 0x407FFFFF = true ∧ base.inRange 0x40800000 = false ∧ base.inRange 0x80000001 = false :=
  ⟨test_base_ok, rfl, by decide +kernel⟩
theorem witness_IndexZeroGivesNaN :
    base.Ok ∧ base.params.sinRom = .rounded ∧ ∃ x, base.voice? 5 = some x ∧ x.seg ≠ .idle ∧
      base.inRange (fmul x.lvl base.frqti) = true ∧ floorIdx (fmul x.lvl base.frqti) = 0 :=
  ⟨test_base_ok, rfl, _, rfl, by decide, by decide +kernel, by decide +kernel⟩
theorem witness_CacheChangesNoOutput :
    base.Ok ∧ (execAll ([0x3F800000, 0x3F800000].map (.sample 1 ·)) base).isSome = true :=
  ⟨test_base_ok, by decide +kernel⟩
theorem witness_HeldLevelComputesOnce :
    base.Ok ∧ ∃ x, base.voice? 3 = some x ∧ x.seg = .sustain ∧ base.inRange (fmul x.lvl base.frqti) = true :=
  ⟨test_base_ok, _, rfl, rfl, by decide +kernel⟩
theorem witness_DefinitionSettersWriteOneRegister :
    base.voice? 11 = some expAttack ∧ 0 ≤ (0x7FFFFFFF#32).toInt ∧ 0 ≤ (0#32).toInt := by decide
theorem witness_CoefficientSettersInvalidateTheCache : ∃ x, base.voice? 6 = some x ∧ x.lastIdx = 1 := ⟨_, rfl, rfl⟩
theorem witness_GetpReadsTheVoice : base.voice? 11 = some expAttack := rfl
theorem witness_DefinitionRecordReadsBack :
    (∃ t, exec (.defrd .gain) base = .next t) ∧
    (execAll [.defwr .gain 7, .defrd .gain] base).isSome = true := ⟨⟨_, rfl⟩, by decide⟩
theorem witness_EnvelopeDefinitionMoves :
    base.voice? 11 = some expAttack ∧ 0 ≤ base.defs.atkRt.toInt ∧ 0 ≤ base.defs.decRt.toInt ∧
    0 ≤ base.defs.relRt.toInt ∧ base.defs.curve.toNat ≤ 1 := by decide
theorem witness_EnvelopeDefinitionRoundTrip :
    base.Ok ∧ (13 : VoiceNo).toNat < base.nv ∧ base.voice? 11 = some expAttack := ⟨test_base_ok, by decide, rfl⟩
/-- Normal, subnormal and zero operands; the largest finite value. -/
theorem witness_PrimitivesRoundToNearestEven :
    fIsFinite 0x3F800000 = true ∧ fIsFinite 1 = true ∧ fIsFinite 0x7F7FFFFF = true ∧ fIsFinite 0x80000000 = true ∧
    fVal 0x80000001 ≠ 0 ∧ fVal 0x80000000 = 0 := by decide +kernel
theorem witness_SpecialValuesOfArithmetic :
    fIsNaN 0xFFC00001 = true ∧ fIsNaN 0x7F800000 = false ∧ fIsInf 0x7F800000 = true ∧ fIsInf 0xFF800000 = true ∧
    fIsInf 0x7F7FFFFF = false ∧ fVal 0x80000000 = 0 := by decide +kernel

end Sys2Proof.Tests
end

section
/-! The step from the input presented, and the two statements about it (00_scope R5; 10_state R33; 30_encoding R97). -/

namespace Sys2Proof.Machine

theorem step_of_idle {s : State} (hp : s.legalParams = true) (h : s.pending = []) : step s = .next s := by
  rw [step, if_pos hp, State.takeInput_nil h]

theorem step_of_input {s : State} {i : Input} {rest : List Input} (hp : s.legalParams = true)
    (h : s.pending = i :: rest) : step s = execInput i { s with pending := rest } := by
  rw [step, if_pos hp, State.takeInput_cons h]

theorem execWord_of_decode {s : State} {w : Cmd} {i : Instr} (h : decode s.nv w = .ok i) :
    execWord w s = exec i s := by
  rw [execWord, h]

/-- Settles O7: moving the port does not change `NV`, so the word decodes alike before and after. -/
theorem stepExecutesTheDecodedCommand : Obligations.StepExecutesTheDecodedCommand := by
  intro s w rest i hp hpending hdecode
  have hdecode' : decode ({ s with pending := rest } : State).nv w = .ok i := hdecode
  calc step s = execWord w { s with pending := rest } := step_of_input hp hpending
    _ = exec i { s with pending := rest } := execWord_of_decode hdecode'

/-- Settles O10. -/
theorem idleBlockKeepsItsState : Obligations.IdleBlockKeepsItsState :=
  fun _ hp hpending => step_of_idle hp hpending

end Sys2Proof.Machine
end

section
/-! Special values (00_scope R18, R19): what each primitive returns when an operand is no finite number. -/

namespace Sys2Proof.Machine

/-! ## Fields of the special values -/

theorem fFrac_lt (x : F32) : fFrac x < 2 ^ 23 := (x.extractLsb' 0 23).isLt

theorem fInf_eq (neg : Bool) : fInf neg = if neg then 0xFF800000 else 0x7F800000 := by cases neg <;> rfl

theorem fZeroOf_eq (neg : Bool) : fZeroOf neg = if neg then 0x80000000 else 0 := by cases neg <;> rfl

@[simp] theorem fIsNaN_fInf (neg : Bool) : fIsNaN (fInf neg) = false := by cases neg <;> rfl

@[simp] theorem fIsNaN_fZeroOf (neg : Bool) : fIsNaN (fZeroOf neg) = false := by cases neg <;> rfl

theorem fVal_eq_zero_iff {x : F32} : fVal x = 0 ↔ fMag x = 0 := by
  unfold fVal
  split <;> omega

theorem fMag_ne_zero_of_inf {x : F32} (h : fIsInf x = true) : fMag x ≠ 0 := by
  obtain ⟨hexp, -⟩ : fExpField x = 255 ∧ fFrac x = 0 := by simpa [fIsInf] using h
  rw [fMag, if_neg (by omega)]
  exact Nat.mul_ne_zero (by omega) (Nat.ne_of_gt (Nat.two_pow_pos _))

/-- An operand is exactly one of a NaN, an infinity and a finite value. -/
theorem fIsFinite_iff {x : F32} : fIsFinite x = true ↔ fIsNaN x = false ∧ fIsInf x = false := by
  by_cases hexp : fExpField x = 255 <;> simp [fIsFinite, fIsNaN, fIsInf, hexp]

/-- Inverting the sign bit leaves the exponent and fraction fields, so it makes and removes no NaN. -/
theorem fIsNaN_fNeg (x : F32) : fIsNaN (fNeg x) = fIsNaN x := by
  have hexp : (fNeg x).extractLsb' 23 8 = x.extractLsb' 23 8 := by
    simp [fNeg, BitVec.extractLsb'_xor]
  have hfrac : (fNeg x).extractLsb' 0 23 = x.extractLsb' 0 23 := by
    simp [fNeg, BitVec.extractLsb'_xor]
  simp only [fIsNaN, fExpField, fFrac, hexp, hfrac]

/-! ## NaN operands -/

theorem fadd_of_nan {a b : F32} (h : fIsNaN a = true ∨ fIsNaN b = true) : fadd a b = fNaN := by
  rw [fadd, if_pos (by simpa using h)]

theorem fsub_of_nan {a b : F32} (h : fIsNaN a = true ∨ fIsNaN b = true) : fsub a b = fNaN :=
  fadd_of_nan (by rwa [fIsNaN_fNeg])

theorem fmul_of_nan {a b : F32} (h : fIsNaN a = true ∨ fIsNaN b = true) : fmul a b = fNaN := by
  rw [fmul, if_pos (by simpa using h)]

theorem fdiv_of_nan {a b : F32} (h : fIsNaN a = true ∨ fIsNaN b = true) : fdiv a b = fNaN := by
  rw [fdiv, if_pos (by simpa using h)]

/-! ## Infinite operands and zero divisors -/

theorem fadd_of_inf_left {a b : F32} (ha : fIsNaN a = false) (hb : fIsNaN b = false) (h : fIsInf a = true) :
    fadd a b = if fIsInf b = true ∧ fSign a ≠ fSign b then fNaN else a := by
  simp [fadd, ha, hb, h]

theorem fadd_of_inf_right {a b : F32} (ha : fIsNaN a = false) (hb : fIsNaN b = false) (hfin : fIsInf a = false)
    (h : fIsInf b = true) : fadd a b = b := by
  simp [fadd, ha, hb, hfin, h]

/-- `0 * inf` is the one product with an infinity that is a NaN. -/
theorem fmul_of_inf {a b : F32} (ha : fIsNaN a = false) (hb : fIsNaN b = false)
    (h : fIsInf a = true ∨ fIsInf b = true) :
    fmul a b = if fVal a = 0 ∨ fVal b = 0 then fNaN else fInf (fSign a != fSign b) := by
  simp only [fVal_eq_zero_iff]
  cases hinf : fIsInf a with
  | true => simp [fmul, ha, hb, hinf, fMag_ne_zero_of_inf hinf]
  | false =>
    have hinfb : fIsInf b = true := by simpa [hinf] using h
    simp [fmul, ha, hb, hinf, hinfb, fMag_ne_zero_of_inf hinfb]

theorem fdiv_of_inf_left {a b : F32} (ha : fIsNaN a = false) (hb : fIsNaN b = false) (h : fIsInf a = true) :
    fdiv a b = if fIsInf b = true then fNaN else fInf (fSign a != fSign b) := by
  simp [fdiv, ha, hb, h]

theorem fdiv_of_inf_right {a b : F32} (ha : fIsNaN a = false) (hb : fIsNaN b = false) (hfin : fIsInf a = false)
    (h : fIsInf b = true) : fdiv a b = fZeroOf (fSign a != fSign b) := by
  simp [fdiv, ha, hb, hfin, h]

theorem fdiv_by_zero {a b : F32} (ha : fIsNaN a = false) (hb : fIsNaN b = false) (hfin : fIsInf a = false)
    (h : fVal b = 0) : fdiv a b = if fVal a = 0 then fNaN else fInf (fSign a != fSign b) := by
  have hmag : fMag b = 0 := fVal_eq_zero_iff.1 h
  have hinf : fIsInf b = false := Bool.eq_false_iff.2 fun hinf => fMag_ne_zero_of_inf hinf hmag
  simp [fdiv, ha, hb, hfin, hinf, hmag, fVal_eq_zero_iff]

/-! ## Finite operands -/

theorem fadd_of_finite {a b : F32} (ha : fIsFinite a = true) (hb : fIsFinite b = true) :
    fadd a b = fOfUnits (fSign a && fSign b) (fVal a + fVal b) := by
  obtain ⟨hnanA, hinfA⟩ := fIsFinite_iff.1 ha
  obtain ⟨hnanB, hinfB⟩ := fIsFinite_iff.1 hb
  simp [fadd, hnanA, hinfA, hnanB, hinfB]

theorem fmul_of_finite {a b : F32} (ha : fIsFinite a = true) (hb : fIsFinite b = true) :
    fmul a b = fPack (fSign a != fSign b) (roundMag (fMag a * fMag b) (2 ^ 149)) := by
  obtain ⟨hnanA, hinfA⟩ := fIsFinite_iff.1 ha
  obtain ⟨hnanB, hinfB⟩ := fIsFinite_iff.1 hb
  simp only [fmul, hnanA, hinfA, hnanB, hinfB, Bool.or_self, Bool.false_eq_true, if_false]

theorem fdiv_of_finite {a b : F32} (ha : fIsFinite a = true) (hb : fIsFinite b = true) (h : fMag b ≠ 0) :
    fdiv a b = fPack (fSign a != fSign b) (roundMag (fMag a * 2 ^ 149) (fMag b)) := by
  obtain ⟨hnanA, hinfA⟩ := fIsFinite_iff.1 ha
  obtain ⟨hnanB, hinfB⟩ := fIsFinite_iff.1 hb
  simp only [fdiv, hnanA, hinfA, hnanB, hinfB, Bool.or_self, Bool.false_eq_true, if_false, h]

/-! ## The one NaN a primitive returns (R19) -/

theorem fIsNaN_fOfUnits (zeroNeg : Bool) (z : Int) : fIsNaN (fOfUnits zeroNeg z) = false := by
  unfold fOfUnits
  split
  · exact fIsNaN_fZeroOf zeroNeg
  · exact fIsNaN_fPack_roundMag _ _ _

/-- The three classes of operands that the special cases of R18 tell apart. -/
theorem operands_cases (a b : F32) :
    (fIsNaN a = true ∨ fIsNaN b = true) ∨
    (fIsNaN a = false ∧ fIsNaN b = false ∧ (fIsInf a = true ∨ fIsInf b = true)) ∨
    (fIsFinite a = true ∧ fIsFinite b = true) := by
  simp only [fIsFinite_iff]
  cases fIsNaN a <;> cases fIsNaN b <;> cases fIsInf a <;> simp

theorem fadd_eq_fNaN_of_isNaN {a b : F32} (h : fIsNaN (fadd a b) = true) : fadd a b = fNaN := by
  rcases operands_cases a b with hnan | ⟨ha, hb, hinf⟩ | ⟨ha, hb⟩
  · exact fadd_of_nan hnan
  · cases hinfA : fIsInf a with
    | true =>
      rw [fadd_of_inf_left ha hb hinfA] at h ⊢
      split
      · rfl
      · next hsame => rw [if_neg hsame, ha] at h; cases h
    | false =>
      rw [fadd_of_inf_right ha hb hinfA (hinf.resolve_left (by simp [hinfA])), hb] at h
      cases h
  · rw [fadd_of_finite ha hb, fIsNaN_fOfUnits] at h
    cases h

theorem fsub_eq_fNaN_of_isNaN {a b : F32} (h : fIsNaN (fsub a b) = true) : fsub a b = fNaN :=
  fadd_eq_fNaN_of_isNaN h

theorem fmul_eq_fNaN_of_isNaN {a b : F32} (h : fIsNaN (fmul a b) = true) : fmul a b = fNaN := by
  rcases operands_cases a b with hnan | ⟨ha, hb, hinf⟩ | ⟨ha, hb⟩
  · exact fmul_of_nan hnan
  · rw [fmul_of_inf ha hb hinf] at h ⊢
    split
    · rfl
    · next hzero => rw [if_neg hzero, fIsNaN_fInf] at h; cases h
  · rw [fmul_of_finite ha hb, fIsNaN_fPack_roundMag] at h
    cases h

theorem fdiv_eq_fNaN_of_isNaN {a b : F32} (h : fIsNaN (fdiv a b) = true) : fdiv a b = fNaN := by
  rcases operands_cases a b with hnan | ⟨ha, hb, hinf⟩ | ⟨ha, hb⟩
  · exact fdiv_of_nan hnan
  · cases hinfA : fIsInf a with
    | true =>
      rw [fdiv_of_inf_left ha hb hinfA] at h ⊢
      split
      · rfl
      · next hfin => rw [if_neg hfin, fIsNaN_fInf] at h; cases h
    | false =>
      rw [fdiv_of_inf_right ha hb hinfA (hinf.resolve_left (by simp [hinfA])), fIsNaN_fZeroOf] at h
      cases h
  · by_cases hmag : fMag b = 0
    · obtain ⟨hnanA, hinfA⟩ := fIsFinite_iff.1 ha
      rw [fdiv_by_zero hnanA (fIsFinite_iff.1 hb).1 hinfA (fVal_eq_zero_iff.2 hmag)] at h ⊢
      split
      · rfl
      · next hzero => rw [if_neg hzero, fIsNaN_fInf] at h; cases h
    · rw [fdiv_of_finite ha hb hmag, fIsNaN_fPack_roundMag] at h
      cases h

/-- Settles O58: one lemma per special case of R18, and the canonical NaN of each primitive. -/
theorem specialValuesOfArithmetic : Obligations.SpecialValuesOfArithmetic := by
  refine ⟨fun op hop a b => ?_, fun a b ha hb => ?_⟩
  · obtain rfl | rfl | rfl | rfl : op = fadd ∨ op = fsub ∨ op = fmul ∨ op = fdiv := by simpa using hop
    · exact ⟨fadd_of_nan, fadd_eq_fNaN_of_isNaN⟩
    · exact ⟨fsub_of_nan, fsub_eq_fNaN_of_isNaN⟩
    · exact ⟨fmul_of_nan, fmul_eq_fNaN_of_isNaN⟩
    · exact ⟨fdiv_of_nan, fdiv_eq_fNaN_of_isNaN⟩
  · simp only [← fInf_eq, ← fZeroOf_eq]
    exact ⟨fadd_of_inf_left ha hb, fadd_of_inf_right ha hb, fmul_of_inf ha hb, fdiv_of_inf_left ha hb,
      fdiv_of_inf_right ha hb, fdiv_by_zero ha hb⟩

end Sys2Proof.Machine
end

section
/-! Rounding (00_scope R18): a rounded value is a nearest one, the even one of two, and an infinity from
2^128 - 2^103 on. First on magnitudes, then with signs, then for each primitive. -/

namespace Sys2Proof.Machine

/-! ## Signed magnitudes and the error of a candidate -/

/-- The integer of the given sign and magnitude. -/
def signed (neg : Bool) (m : Nat) : Int := if neg then -(m : Int) else m

theorem fVal_eq_signed (x : F32) : fVal x = signed (fSign x) (fMag x) := rfl

@[simp] theorem signed_false (m : Nat) : signed false m = m := rfl

@[simp] theorem signed_true (m : Nat) : signed true m = -(m : Int) := rfl

theorem natAbs_signed (neg : Bool) (m : Nat) : (signed neg m).natAbs = m := by
  cases neg <;> simp

theorem signed_natAbs (z : Int) : signed (decide (z < 0)) z.natAbs = z := by
  by_cases hz : z < 0
  · rw [decide_eq_true hz, signed, if_pos rfl]; omega
  · rw [decide_eq_false hz, signed, if_neg Bool.false_ne_true]; omega

theorem signed_mul (s t : Bool) (m n : Nat) : signed (s != t) (m * n) = signed s m * signed t n := by
  cases s <;> cases t <;>
    simp only [bne_self_eq_false, Bool.true_bne, Bool.false_bne, Bool.not_false, signed_false, signed_true,
      Int.natCast_mul, Int.neg_mul, Int.mul_neg, Int.neg_neg]

theorem sign_signed {neg : Bool} {m : Nat} (h : m ≠ 0) : (signed neg m).sign = signed neg 1 := by
  cases neg <;> simp [Nat.pos_of_ne_zero h]

/-- How far `v` lies from `num / den`, times `den`. -/
def roundErr (num : Int) (den : Nat) (v : Int) : Nat := (v * den - num).natAbs

theorem roundErr_signed (s neg : Bool) (n d m : Nat) :
    roundErr (signed neg n) d (signed s m) = (signed s (m * d) - signed neg n).natAbs := by
  cases s <;> simp only [roundErr, signed_false, signed_true, Int.natCast_mul, Int.neg_mul]

theorem roundErr_natCast (n d m : Nat) : roundErr n d m = ((m * d : Nat) - (n : Int)).natAbs := by
  simp [roundErr]

/-- A candidate of the sign of the exact value is as far from it as their magnitudes are apart. -/
theorem roundErr_signed_same (neg : Bool) (n d m : Nat) :
    roundErr (signed neg n) d (signed neg m) = roundErr n d m := by
  rw [roundErr_signed, roundErr_natCast]
  cases neg
  · simp only [signed_false]
  · simp only [signed_true]; omega

/-- A candidate of the other sign is further away by the smaller magnitude, twice. -/
theorem roundErr_signed_other (neg : Bool) (n d m : Nat) :
    roundErr (signed neg n) d (signed (!neg) m) = roundErr n d m + 2 * min n (m * d) := by
  rw [roundErr_signed, roundErr_natCast]
  cases neg <;> simp only [Bool.not_true, Bool.not_false, signed_false, signed_true] <;> omega

/-! ## Rounding to an integer -/

/-- An integer up to the floor of the quotient is too small by the remainder at least, one above it too large by the
rest at least, and any further integer by a whole unit more. -/
theorem roundErr_floor {n d : Nat} (hd : 0 < d) (j : Nat) :
    (j = n / d ∧ roundErr n d j = n % d) ∨ (j < n / d ∧ n % d + d ≤ roundErr n d j) ∨
    (j = n / d + 1 ∧ roundErr n d j = d - n % d) ∨ (n / d + 1 < j ∧ d - n % d + d ≤ roundErr n d j) := by
  rw [roundErr_natCast]
  have hn : n / d * d + n % d = n := Nat.div_add_mod' n d
  have hr : n % d < d := Nat.mod_lt n hd
  rcases Nat.lt_trichotomy j (n / d) with h | rfl | h
  · have hj : (j + 1) * d ≤ n / d * d := Nat.mul_le_mul_right d h
    rw [Nat.succ_mul] at hj
    omega
  · omega
  · rcases Nat.lt_or_eq_of_le (Nat.succ_le_of_lt h) with h2 | rfl
    · have hj : (n / d + 2) * d ≤ j * d := Nat.mul_le_mul_right d h2
      rw [Nat.add_mul] at hj
      omega
    · rw [Nat.succ_mul]
      omega

/-- The rounded quotient is at least as near as any other integer, and even when another one is as near. -/
theorem roundNearestEven_nearest {n d : Nat} (hd : 0 < d) (j : Nat) :
    roundErr n d (roundNearestEven n d : Nat) ≤ roundErr n d j ∧
    (roundErr n d (roundNearestEven n d : Nat) = roundErr n d j → j ≠ roundNearestEven n d →
      roundNearestEven n d % 2 = 0) := by
  have hr : n % d < d := Nat.mod_lt n hd
  have hj := roundErr_floor (n := n) hd j
  have hq := roundErr_floor (n := n) hd (roundNearestEven n d)
  rcases roundNearestEven_cases n d with h | h <;> omega

/-- Rounding reaches an even number exactly from half below it on. -/
theorem le_roundNearestEven_iff {n d m : Nat} (hd : 0 < d) (hm : m % 2 = 0) :
    m ≤ roundNearestEven n d ↔ 2 * m * d ≤ 2 * n + d := by
  have hn : n / d * d + n % d = n := Nat.div_add_mod' n d
  have hr : n % d < d := Nat.mod_lt n hd
  have hcases := roundNearestEven_cases n d
  rw [Nat.mul_assoc]
  rcases Nat.lt_trichotomy m (n / d + 1) with h | h | h
  · have hmd : m * d ≤ n / d * d := Nat.mul_le_mul_right d (by omega)
    omega
  · have hmd : m * d = n / d * d + d := by rw [h, Nat.succ_mul]
    omega
  · have hmd : (n / d + 2) * d ≤ m * d := Nat.mul_le_mul_right d h
    rw [Nat.add_mul] at hmd
    omega

/-! ## Rounding a magnitude -/

/-- The quotient lies in the binade of its quantum, when that is more than one unit. -/
theorem binade_le {n d : Nat} (h : 0 < Nat.log2 (n / d) - 23) :
    2 ^ 23 * (d * 2 ^ (Nat.log2 (n / d) - 23)) ≤ n := by
  have h0 : n / d ≠ 0 := fun h0 => by simp [h0] at h
  calc 2 ^ 23 * (d * 2 ^ (Nat.log2 (n / d) - 23))
      = 2 ^ (23 + (Nat.log2 (n / d) - 23)) * d := by rw [Nat.pow_add]; ac_rfl
    _ = 2 ^ Nat.log2 (n / d) * d := by rw [show 23 + (Nat.log2 (n / d) - 23) = Nat.log2 (n / d) by omega]
    _ ≤ n / d * d := Nat.mul_le_mul_right d (Nat.log2_self_le h0)
    _ ≤ n := Nat.div_mul_le_self n d

theorem binade_lt {n d : Nat} (hd : 0 < d) : n < 2 ^ 24 * (d * 2 ^ (Nat.log2 (n / d) - 23)) := by
  have hlog : n / d < 2 ^ (24 + (Nat.log2 (n / d) - 23)) :=
    Nat.lt_of_lt_of_le Nat.lt_log2_self (Nat.pow_le_pow_right (by decide) (by omega))
  calc n < 2 ^ (24 + (Nat.log2 (n / d) - 23)) * d := (Nat.div_lt_iff_lt_mul hd).1 hlog
    _ = 2 ^ 24 * (d * 2 ^ (Nat.log2 (n / d) - 23)) := by rw [Nat.pow_add]; ac_rfl

/-- Every magnitude is a multiple of the quantum 2^k or lies below the binade of that quantum. -/
theorem fMag_multiple_or_lt (c : F32) (k : Nat) :
    (∃ j, fMag c = j * 2 ^ k) ∨ (0 < k ∧ fMag c < 2 ^ 23 * 2 ^ k) := by
  obtain ⟨j, e, hj, hmag⟩ : ∃ j e, j < 2 ^ 24 ∧ fMag c = j * 2 ^ e := by
    have hfrac := fFrac_lt c
    by_cases hexp : fExpField c = 0
    · exact ⟨fFrac c, 0, by omega, by simp [fMag, hexp]⟩
    · exact ⟨2 ^ 23 + fFrac c, fExpField c - 1, by omega, by simp only [fMag, hexp, if_false]⟩
  rcases Nat.lt_or_ge e k with h | h
  · refine .inr ⟨by omega, ?_⟩
    calc fMag c = j * 2 ^ e := hmag
      _ < 2 ^ 24 * 2 ^ e := Nat.mul_lt_mul_of_pos_right hj (Nat.two_pow_pos e)
      _ = 2 ^ 23 * 2 ^ (e + 1) := by rw [Nat.pow_succ]; omega
      _ ≤ 2 ^ 23 * 2 ^ k := Nat.mul_le_mul_left _ (Nat.pow_le_pow_right (by decide) h)
  · refine .inl ⟨j * 2 ^ (e - k), ?_⟩
    rw [hmag, Nat.mul_assoc, ← Nat.pow_add, Nat.sub_add_cancel h]

/-- The exponent and the significand `roundMag` puts together. -/
def roundExp (n d : Nat) : Nat := Nat.log2 (n / d) - 23

def roundSig (n d : Nat) : Nat := roundNearestEven n (d * 2 ^ roundExp n d)

theorem roundMag_eq (n d : Nat) : roundMag n d = min (roundExp n d * 2 ^ 23 + roundSig n d) 0x7F800000 := rfl

/-- The significand lies in the binade its exponent names, the upper end included. -/
theorem roundSig_binade {n d : Nat} (hd : 0 < d) :
    (roundExp n d = 0 ∧ roundSig n d < 2 ^ 23) ∨ (2 ^ 23 ≤ roundSig n d ∧ roundSig n d ≤ 2 ^ 24) :=
  roundMag_significand hd

theorem roundSig_zero {d : Nat} (hd : 0 < d) : roundSig 0 d = 0 := by
  have h := roundNearestEven_mul 0 (Nat.mul_pos hd (Nat.two_pow_pos (roundExp 0 d)))
  rwa [Nat.zero_mul] at h

theorem roundErr_scale (n d j k : Nat) : roundErr n d (j * 2 ^ k : Nat) = roundErr n (d * 2 ^ k) j := by
  rw [roundErr_natCast, roundErr_natCast, show j * 2 ^ k * d = j * (d * 2 ^ k) by ac_rfl]

/-- A magnitude below the binade of the quotient is further away than the least one of the binade, which is a
multiple of the quantum. -/
theorem roundSig_nearest {n d : Nat} (hd : 0 < d) (c : F32) :
    roundErr n d (roundSig n d * 2 ^ roundExp n d : Nat) ≤ roundErr n d (fMag c) ∧
    (roundErr n d (roundSig n d * 2 ^ roundExp n d : Nat) = roundErr n d (fMag c) →
      fMag c ≠ roundSig n d * 2 ^ roundExp n d → roundSig n d % 2 = 0) := by
  have hquantum : 0 < d * 2 ^ roundExp n d := Nat.mul_pos hd (Nat.two_pow_pos _)
  rcases fMag_multiple_or_lt c (roundExp n d) with ⟨j, hj⟩ | ⟨hk, hlt⟩
  · obtain ⟨hle, heven⟩ := roundNearestEven_nearest (n := n) hquantum j
    rw [hj, roundErr_scale, roundErr_scale]
    exact ⟨hle, fun htie hne => heven htie fun h => hne (by rw [h, roundSig])⟩
  · have hle := (roundNearestEven_nearest (n := n) hquantum (2 ^ 23)).1
    have hfar : roundErr n (d * 2 ^ roundExp n d) (2 ^ 23 : Nat) < roundErr n d (fMag c) := by
      have hbin : 2 ^ 23 * (d * 2 ^ roundExp n d) ≤ n := binade_le hk
      have hmag : fMag c * d < 2 ^ 23 * (d * 2 ^ roundExp n d) :=
        calc fMag c * d < 2 ^ 23 * 2 ^ roundExp n d * d := Nat.mul_lt_mul_of_pos_right hlt hd
          _ = 2 ^ 23 * (d * 2 ^ roundExp n d) := by ac_rfl
      rw [roundErr_natCast, roundErr_natCast]
      omega
    rw [roundErr_scale, roundSig]
    omega

/-- The overflow threshold of R18: half a quantum below the magnitude that follows the greatest finite one. -/
theorem overflow_iff {n d : Nat} (hd : 0 < d) :
    0x7F800000 ≤ roundExp n d * 2 ^ 23 + roundSig n d ↔ (2 ^ 25 - 1) * 2 ^ 252 * d ≤ n := by
  have hlt : n < 2 ^ 24 * (d * 2 ^ roundExp n d) := binade_lt hd
  have hsig := roundSig_binade (n := n) hd
  rcases Nat.lt_trichotomy (roundExp n d) 253 with h | h | h
  · have hpow : d * 2 ^ roundExp n d ≤ d * 2 ^ 252 :=
      Nat.mul_le_mul_left d (Nat.pow_le_pow_right (by decide) (by omega))
    omega
  · have hround : 2 ^ 24 ≤ roundSig n d ↔ 2 * 2 ^ 24 * (d * 2 ^ 253) ≤ 2 * n + d * 2 ^ 253 := by
      rw [roundSig, h]
      exact le_roundNearestEven_iff (by omega) (by decide)
    omega
  · have hbin : 2 ^ 23 * (d * 2 ^ roundExp n d) ≤ n := binade_le (by unfold roundExp at h; omega)
    have hpow : d * 2 ^ 254 ≤ d * 2 ^ roundExp n d :=
      Nat.mul_le_mul_left d (Nat.pow_le_pow_right (by decide) (by omega))
    omega

/-! ## The packed result -/

theorem fIsInf_fPack_roundMag (neg : Bool) {n d : Nat} (h : 0x7F800000 ≤ roundExp n d * 2 ^ 23 + roundSig n d) :
    fIsInf (fPack neg (roundMag n d)) = true := by
  rw [roundMag_eq, Nat.min_eq_right h]
  exact (by cases neg <;> rfl : fIsInf (fPack neg 0x7F800000) = true)

/-- Below the overflow threshold the packed result is finite, of the magnitude rounded to, and its fraction field is
even with the significand. -/
theorem fPack_roundMag_of_lt (neg : Bool) {n d : Nat} (hd : 0 < d)
    (h : roundExp n d * 2 ^ 23 + roundSig n d < 0x7F800000) :
    fIsFinite (fPack neg (roundMag n d)) = true ∧
    fVal (fPack neg (roundMag n d)) = signed neg (roundSig n d * 2 ^ roundExp n d : Nat) ∧
    fFrac (fPack neg (roundMag n d)) % 2 = roundSig n d % 2 := by
  have hb : roundExp n d * 2 ^ 23 + roundSig n d < 2 ^ 31 := by omega
  rw [roundMag_eq, Nat.min_eq_left (Nat.le_of_lt h), fVal_eq_signed, fSign_fPack hb,
    fMag_fPack (roundSig_binade hd) hb, fFrac_fPack hb, fIsFinite, fExpField_fPack hb]
  refine ⟨bne_iff_ne.2 (by omega), rfl, by omega⟩

/-- The rounding that every primitive ends in is the rounding of R18. -/
theorem roundsTo_fPack_roundMag (neg : Bool) {n d : Nat} (hd : 0 < d) :
    RoundsTo (fPack neg (roundMag n d)) (signed neg n) d := by
  have hsign : fSign (fPack neg (roundMag n d)) = neg :=
    fSign_fPack (Nat.lt_of_le_of_lt (roundMag_le n d) (by decide))
  refine ⟨fun hpos => ?_, fun hneg => ?_, ?_⟩
  · cases neg
    · exact hsign
    · simp only [signed_true] at hpos; omega
  · cases neg
    · simp only [signed_false] at hneg; omega
    · exact hsign
  rw [natAbs_signed]
  split
  · next hover => exact fIsInf_fPack_roundMag neg ((overflow_iff hd).2 hover)
  · next hunder =>
    obtain ⟨hfin, hval, hfrac⟩ := fPack_roundMag_of_lt neg hd (Nat.lt_of_not_le (mt (overflow_iff hd).1 hunder))
    refine ⟨hfin, fun c _ => ?_⟩
    obtain ⟨hle, heven⟩ := roundSig_nearest (n := n) hd c
    rw [hval, hfrac, fVal_eq_signed c]
    change roundErr _ _ _ ≤ roundErr _ _ _ ∧ (roundErr _ _ _ = roundErr _ _ _ → _)
    rw [roundErr_signed_same]
    by_cases hc : fSign c = neg
    · rw [hc, roundErr_signed_same]
      exact ⟨hle, fun htie hne => heven htie fun h => hne (by rw [h])⟩
    · rw [Bool.eq_not_of_ne hc, roundErr_signed_other]
      refine ⟨Nat.le_trans hle (Nat.le_add_right ..), fun htie hne => ?_⟩
      by_cases hmag : fMag c = roundSig n d * 2 ^ roundExp n d
      · have hmin : min n (fMag c * d) = 0 := by rw [← hmag] at htie; omega
        rcases Nat.min_eq_zero_iff.1 hmin with rfl | hzero
        · rw [roundSig_zero hd]
        · have hzero' : fMag c = 0 := (Nat.mul_eq_zero.1 hzero).resolve_right (by omega)
          exact absurd (by rw [← hmag, hzero']; cases neg <;> rfl) hne
      · exact heven (by omega) hmag

/-! ## The primitives -/

theorem roundMag_zero {d : Nat} (hd : 0 < d) : roundMag 0 d = 0 := by
  rw [roundMag_eq, roundSig_zero hd, roundExp, Nat.zero_div]
  rfl

theorem roundsTo_fOfUnits (zeroNeg : Bool) (z : Int) : RoundsTo (fOfUnits zeroNeg z) z 1 := by
  unfold fOfUnits
  split
  · next hz =>
    have h := roundsTo_fPack_roundMag (n := 0) zeroNeg Nat.one_pos
    rw [roundMag_zero Nat.one_pos] at h
    rw [hz]
    cases zeroNeg <;> exact h
  · have h := roundsTo_fPack_roundMag (n := z.natAbs) (decide (z < 0)) Nat.one_pos
    rwa [signed_natAbs] at h

theorem roundsTo_fmul {a b : F32} (ha : fIsFinite a = true) (hb : fIsFinite b = true) :
    RoundsTo (fmul a b) (fVal a * fVal b) (2 ^ 149) := by
  rw [fmul_of_finite ha hb, fVal_eq_signed, fVal_eq_signed, ← signed_mul]
  exact roundsTo_fPack_roundMag _ (Nat.two_pow_pos 149)

/-- The sign of the divisor is moved to the dividend, as `RoundsTo` wants a positive denominator. -/
theorem roundsTo_fdiv {a b : F32} (ha : fIsFinite a = true) (hb : fIsFinite b = true) (h : fMag b ≠ 0) :
    RoundsTo (fdiv a b) (fVal a * 2 ^ 149 * (fVal b).sign) (fVal b).natAbs := by
  have hnum : fVal a * 2 ^ 149 * (fVal b).sign = signed (fSign a != fSign b) (fMag a * 2 ^ 149 * 1 : Nat) := by
    rw [signed_mul, fVal_eq_signed b, sign_signed h, fVal_eq_signed a]
    have hscale : signed (fSign a) (fMag a * 2 ^ 149) = signed (fSign a) (fMag a) * 2 ^ 149 := by
      have h149 := signed_mul (fSign a) false (fMag a) (2 ^ 149)
      rwa [Bool.bne_false, signed_false, Int.natCast_pow] at h149
    rw [hscale]
  rw [fdiv_of_finite ha hb h, hnum, Nat.mul_one, fVal_eq_signed, natAbs_signed]
  exact roundsTo_fPack_roundMag _ (Nat.pos_of_ne_zero h)

theorem fmul_of_zero_product {a b : F32} (ha : fIsFinite a = true) (hb : fIsFinite b = true)
    (h : fVal a * fVal b = 0) : fmul a b = fZeroOf (fSign a != fSign b) := by
  have hmag : fMag a * fMag b = 0 :=
    Nat.mul_eq_zero.2 ((Int.mul_eq_zero.1 h).imp fVal_eq_zero_iff.1 fVal_eq_zero_iff.1)
  rw [fmul_of_finite ha hb, hmag, roundMag_zero (Nat.two_pow_pos 149), fZeroOf]

theorem fdiv_of_zero_dividend {a b : F32} (ha : fIsFinite a = true) (hb : fIsFinite b = true) (hmag : fMag b ≠ 0)
    (h : fVal a = 0) : fdiv a b = fZeroOf (fSign a != fSign b) := by
  rw [fdiv_of_finite ha hb hmag, fVal_eq_zero_iff.1 h, Nat.zero_mul, roundMag_zero (Nat.pos_of_ne_zero hmag), fZeroOf]

/-- Settles O57: every primitive packs one rounding of its exact result, and `roundsTo_fPack_roundMag` says what that
rounding gives. -/
theorem primitivesRoundToNearestEven : Obligations.PrimitivesRoundToNearestEven := by
  refine ⟨fun a b ha hb => ?_, fun n => ⟨roundsTo_fOfUnits false _, fun hn => by rw [hn]; rfl⟩⟩
  simp only [← fZeroOf_eq]
  refine ⟨?_, fun hsum => ?_, rfl, roundsTo_fmul ha hb, fmul_of_zero_product ha hb, fun hdivisor => ?_⟩
  · rw [fadd_of_finite ha hb]
    exact roundsTo_fOfUnits _ _
  · rw [fadd_of_finite ha hb, fOfUnits, if_pos hsum]
  · have hmag : fMag b ≠ 0 := mt fVal_eq_zero_iff.2 hdivisor
    exact ⟨roundsTo_fdiv ha hb hmag, fdiv_of_zero_dividend ha hb hmag⟩

end Sys2Proof.Machine
end

section
/-! What an input presented does to the block, and the two statements that follow from what any command can do
(10_state R31, R40, R41; 60_exceptions R253). -/

namespace Sys2Proof.Machine

/-- No cause a decoding is rejected for is `ok` (30_encoding R97). -/
theorem decode_error_ne_ok {nv : Nat} {w : Cmd} {c : Status} (h : decode nv w = .error c) : c ≠ .ok := by
  unfold decode at h
  split at h
  · cases h; decide
  split at h
  · cases h; decide
  split at h
  · cases h; decide
  split at h
  · cases h; decide
  · cases h

/-- A word presented is rejected, or it decodes to a command that is carried out. -/
theorem execWord_cases {w : Cmd} {s t : State} (h : execWord w s = .next t) :
    (∃ c w', c ≠ .ok ∧ t = reject c w' s) ∨
    ∃ i d e, decode s.nv w = .ok i ∧ Carried i s e ∧ t = respond d e := by
  cases hdec : decode s.nv w with
  | error c =>
    rw [execWord, hdec] at h
    exact .inl ⟨c, w, decode_error_ne_ok hdec, (Host.Outcome.next.inj h).symm⟩
  | ok i =>
    rw [execWord_of_decode hdec] at h
    rcases exec_shape i s with ⟨c, hc, hr⟩ | ⟨d, e, hr, he⟩ | hr
    · exact .inl ⟨c, _, hc, Host.Outcome.next.inj (h.symm.trans hr)⟩
    · exact .inr ⟨i, d, e, rfl, he, Host.Outcome.next.inj (h.symm.trans hr)⟩
    · cases h.symm.trans hr

/-- A word presented leaves a capture that has been made as it is. -/
theorem execWord_keeps_capture {w : Cmd} {s t : State} (herr : s.err = true) (h : execWord w s = .next t) :
    t.err = true ∧ t.errCause = s.errCause ∧ t.errCmd = s.errCmd := by
  rcases execWord_cases h with ⟨c, w', -, rfl⟩ | ⟨i, d, e, -, he, rfl⟩
  · simp [herr]
  · exact ⟨he.err.trans herr, he.errCause, he.errCmd⟩

/-- Settles O16: a step that is no reset either has nothing presented or executes a word. -/
theorem errorCaptureIsSticky : Obligations.ErrorCaptureIsSticky := by
  intro s t herr hhead hstep
  obtain ⟨-, ⟨-, rfl⟩ | ⟨i, rest, hpending, hexec⟩⟩ := step_cases hstep
  · exact ⟨herr, rfl, rfl⟩
  · cases i with
    | command w => exact execWord_keeps_capture (s := { s with pending := rest }) herr hexec
    | hardReset => exact absurd (by rw [hpending]; rfl) hhead

/-- Settles O24: a rejection leaves every context alone, and `Carried` says what a command carried out leaves alone. -/
theorem unnamedVoicesAreUntouched : Obligations.UnnamedVoicesAreUntouched := by
  intro i s t u hi hexec hu
  rcases exec_shape i s with ⟨c, -, hr⟩ | ⟨d, e, hr, he⟩ | hr <;> rw [hr] at hexec <;> cases hexec
  · exact reject_voice? _ _ _ _
  · exact he.voices hi u hu

end Sys2Proof.Machine
end

section
/-! The invariant of one voice context (10_state R66) under the operations the commands are made of. -/

namespace Sys2Proof.Machine

/-! ## What the invariant of a voice depends on -/

/-- The invariant of a voice reads the table alone from the state around it. -/
theorem Voice.Ok.congr {s t : State} {x : Voice} (h : x.Ok s) (hrdy : t.tblRdy = s.tblRdy) (hlen : t.tlen = s.tlen)
    (hpar : t.params = s.params) (hcos : t.cosoffs = s.cosoffs) : x.Ok t :=
  { h with
    cacheRange := by rw [hrdy, hcos]; exact h.cacheRange
    cache := by rw [State.coefLP_congr hrdy hlen hpar hcos]; exact h.cache
    ready := by rw [hrdy]; exact h.ready }

theorem Voice.reset_ok (s : State) : Voice.reset.Ok s where
  atkRt := by decide
  decRt := by decide
  relRt := by decide
  ramp := nofun
  hold := by decide
  held := by decide
  linear := by decide
  cacheRange := .inl rfl
  cache := fun h => absurd rfl h
  ready := fun h => absurd rfl h

/-- Without a table no index is cached and no envelope runs, so that the context is in order in any state. -/
theorem Voice.Ok.of_down {s : State} {x : Voice} (h : x.Ok s) (hdown : s.tblRdy = false) (t : State) : x.Ok t :=
  have hidx : x.lastIdx = noIdx := h.cacheRange.resolve_right fun ⟨hup, _⟩ => by simp [hdown] at hup
  { h with
    cacheRange := .inl hidx
    cache := fun hne => absurd hidx hne
    ready := fun hseg => absurd (h.ready hseg) (by simp [hdown]) }

/-! ## Envelope -/

theorem Voice.Ok.progressOk {s : State} {x : Voice} (h : x.Ok s) (hseg : x.seg ≠ .idle) : x.ProgressOk :=
  ⟨hseg, h.ramp, h.hold, h.held, h.linear⟩

/-- New progress that is in order by itself is in order beside the registers it leaves alone. -/
theorem Voice.Ok.of_progressOk {s : State} {x y : Voice} (h : x.Ok s) (hrdy : s.tblRdy = true)
    (hframe : x.SameBesidesProgress y) (hy : y.ProgressOk) : y.Ok s := by
  obtain ⟨hdef, -, -, htaps, -, -, -, -, hidx⟩ := Voice.sameBesidesProgress_iff.1 hframe
  have hatk : y.atkRt = x.atkRt := hdef .atkRt
  have hdec : y.decRt = x.decRt := hdef .decRt
  have hrel : y.relRt = x.relRt := hdef .relRt
  exact
    { atkRt := hatk ▸ h.atkRt
      decRt := hdec ▸ h.decRt
      relRt := hrel ▸ h.relRt
      ramp := hy.ramp
      hold := hy.hold
      held := hy.held
      linear := hy.linear
      cacheRange := hidx ▸ h.cacheRange
      cache := by rw [hidx, htaps]; exact h.cache
      ready := fun _ => hrdy }

theorem Seg.next_ne_idle {g : Seg} (h : g.isRamp = true) : g.next ≠ .idle := by
  rcases Seg.isRamp_eq_true.1 h with rfl | rfl | rfl <;> decide

/-- A step of a ramp that does not complete it stays below `CNT`; one that does enters the next segment. -/
theorem rampStep_progressOk {s : State} {x : Voice} (h : x.Ok s) (hramp : x.seg.isRamp = true) (e : F32) :
    (rampStep e x).ProgressOk := by
  obtain ⟨hlt, hcnt⟩ := h.ramp hramp
  by_cases hlast : x.pos + 1 = x.cnt
  · rw [rampStep_of_eq hlast]
    exact enterSeg_progressOk (Seg.next_ne_idle hramp) h.atkRt h.decRt h.relRt
  · rw [rampStep_of_ne hlast]
    have hpos : zext32 (x.pos + 1) < zext32 x.cnt := by
      unfold zext32 at hlt ⊢
      bv_omega
    exact
      { active := by rcases Seg.isRamp_eq_true.1 hramp with hg | hg | hg <;> simp [hg]
        ramp := fun _ => ⟨hpos, hcnt⟩
        hold := fun hhold => absurd hramp (by simp [hhold])
        held := fun hheld => absurd hramp (by rw [Seg.isRamp_eq_false.2 (.inr hheld)]; decide)
        linear := h.linear }

theorem envAdvance_ok {s : State} {x : Voice} (h : x.Ok s) (e : F32) : (envAdvance e x).Ok s := by
  cases hramp : x.seg.isRamp with
  | false => rwa [envAdvance_hold hramp]
  | true =>
    have hrdy : s.tblRdy = true := h.ready fun hidle => by simp [hidle, Seg.isRamp] at hramp
    rw [envAdvance_ramp hramp]
    exact h.of_progressOk hrdy (rampStep_frame e x) (rampStep_progressOk h hramp e)

theorem envSkip_ok {s : State} (e : F32) (n : Nat) {x : Voice} (h : x.Ok s) : (envSkip e n x).Ok s := by
  induction n generalizing x with
  | zero => exact h
  | succ n ih => rw [envSkip_succ]; exact ih (envAdvance_ok h e)

theorem releaseVoice_ok {s : State} {x : Voice} (h : x.Ok s) (hseg : x.seg ≠ .idle) (e : F32) :
    (releaseVoice e x).Ok s := by
  by_cases hstays : x.seg = .release ∨ x.seg = .done
  · rwa [releaseVoice_stays (.inr hstays)]
  · have henters : x.seg = .attack ∨ x.seg = .decay ∨ x.seg = .sustain := by
      cases hg : x.seg <;> simp_all
    refine h.of_progressOk (h.ready hseg) (releaseVoice_frame e x) ?_
    rw [releaseVoice_enters henters]
    exact enterRelease_progressOk h.relRt

theorem restart_ok {s : State} {x : Voice} (h : x.Ok s) (hrdy : s.tblRdy = true) (e : F32) : (restart e x).Ok s :=
  h.of_progressOk hrdy (restart_frame e x) (enterAttack_progressOk h.atkRt h.decRt)

/-! ## Registers -/

/-- The definition words that are rates are legal exactly when they are not negative (44_params R211). -/
theorem validDefWord_rate {k : DefWord} (hk : k ∈ [DefWord.atkRt, .decRt, .relRt]) {w : Word} :
    validDefWord k w = .ok ↔ 0 ≤ sext32 w := by
  simp only [List.mem_cons, List.not_mem_nil, or_false] at hk
  rcases hk with rfl | rfl | rfl <;> simp [validDefWord]

theorem Voice.Ok.setDef {s : State} {x : Voice} (h : x.Ok s) {k : DefWord} {w : Word} (hw : validDefWord k w = .ok) :
    (x.setDef k w).Ok s := by
  cases k
  case atkRt => exact { h with atkRt := (validDefWord_rate (by decide)).1 hw }
  case decRt => exact { h with decRt := (validDefWord_rate (by decide)).1 hw }
  case relRt => exact { h with relRt := (validDefWord_rate (by decide)).1 hw }
  all_goals exact { h with }

/-- Coefficients are free while no index is cached. -/
theorem Voice.Ok.setTaps {s : State} {x : Voice} (h : x.Ok s) (c : Taps) :
    ({ x with taps := c, lastIdx := noIdx } : Voice).Ok s :=
  { h with
    cacheRange := .inl rfl
    cache := fun hne => absurd rfl hne }

theorem Voice.Ok.loadEnvDef {s : State} {x : Voice} (h : x.Ok s) {d : DefRecord}
    (hd : firstInvalid d envDefWords = .ok) : (x.loadEnvDef d).Ok s :=
  have hvalid := firstInvalid_eq_ok.1 hd
  { h with
    atkRt := (validDefWord_rate (by decide)).1 (hvalid .atkRt (by decide))
    decRt := (validDefWord_rate (by decide)).1 (hvalid .decRt (by decide))
    relRt := (validDefWord_rate (by decide)).1 (hvalid .relRt (by decide)) }

theorem Voice.Ok.loadDef {s : State} {x : Voice} (h : x.Ok s) {d : DefRecord}
    (hd : firstInvalid d allDefWords = .ok) : (x.loadDef d).Ok s :=
  have henv : firstInvalid d envDefWords = .ok :=
    firstInvalid_eq_ok.2 fun k hk => firstInvalid_eq_ok.1 hd k (List.mem_append_left _ hk)
  { h.loadEnvDef henv with }

theorem Voice.Ok.clearHistory {s : State} {x : Voice} (h : x.Ok s) : x.clearHistory.Ok s := { h with }

theorem Voice.Ok.biquad {s : State} {x : Voice} (h : x.Ok s) (input : F32) : (biquad x input).2.Ok s := { h with }

theorem initVoice_ok {s : State} {x : Voice} (h : x.Ok s) (hrdy : s.tblRdy = true)
    (hd : firstInvalid s.defs allDefWords = .ok) (e : F32) : (initVoice e s.defs x).Ok s :=
  restart_ok ((h.loadDef hd).clearHistory.setTaps Taps.zero) hrdy e

/-- The coefficients `SAMPLE` recomputes are those of the index it caches (43_coupling R185, R188). -/
theorem State.refresh_ok {s : State} {x y : Voice} (h : x.Ok s) (hrdy : s.tblRdy = true) {idx : Nat}
    (hidx : idx < zext32 s.cosoffs) (hy : s.refresh idx x = some y) : y.Ok s := by
  rcases State.refresh_eq_some.1 hy with ⟨-, rfl⟩ | ⟨-, c, hc, rfl⟩
  · exact h
  · have hnat : zext32 (BitVec.ofNat 32 idx) = idx :=
      (BitVec.toNat_ofNat idx 32).trans (Nat.mod_eq_of_lt (Nat.lt_trans hidx s.cosoffs.isLt))
    exact
      { h with
        cacheRange := .inr ⟨hrdy, by rw [hnat]; exact hidx⟩
        cache := fun _ => by rw [hnat]; exact hc }

end Sys2Proof.Machine
end

section
/-! The invariant of the block (10_state R66, R36 to R41): the reset state has it, every step keeps it, and so every
state a run from reset reaches has it. -/

namespace Sys2Proof.Machine

/-! ## What the invariant of the block depends on -/

/-- The definition record and the port are free. -/
theorem State.Ok.withRecordAndPort {s : State} (h : s.Ok) (d : DefRecord) (p : List Input) (r : List Response) :
    ({ s with defs := d, pending := p, responses := r } : State).Ok :=
  { h with voices := fun x hx => (h.voices x hx).congr rfl rfl rfl rfl }

theorem State.Ok.respond {s : State} (h : s.Ok) (d : Word) : (respond d s).Ok :=
  h.withRecordAndPort s.defs s.pending _

theorem State.Ok.reject {s : State} (h : s.Ok) {c : Status} (hc : c ≠ .ok) (w : Cmd) : (reject c w s).Ok := by
  rw [reject_eq]
  exact
    { h with
      noError := nofun
      error := fun _ => by
        cases herr : s.err
        · exact hc
        · exact h.error herr
      voices := fun x hx => (h.voices x hx).congr rfl rfl rfl rfl }

theorem State.legalParams_of_eq {s t : State} (h : s.legalParams = true) (hpar : t.params = s.params)
    (hnv : t.nv = s.nv) : t.legalParams = true := by
  rwa [State.legalParams, hpar, hnv]

theorem State.Ok.setVoice {s : State} (h : s.Ok) (v : VoiceNo) {y : Voice} (hy : y.Ok s) : (s.setVoice v y).Ok :=
  { h with
    params := State.legalParams_of_eq h.params rfl (State.setVoice_nv v y s)
    voices := fun x hx => by
      have hx' : x.Ok s := (List.mem_or_eq_of_mem_set hx).elim (h.voices x) fun heq => heq ▸ hy
      exact hx'.congr rfl rfl rfl rfl }

/-! ## Reset -/

/-- Settles O20: without a table the clauses of a session are empty, and every context is `Voice.reset`. -/
theorem resetSatisfiesTheInvariant : Obligations.ResetSatisfiesTheInvariant := by
  intro p nv hp
  exact
    { params := hp
      tlen := nofun
      cosoffs := nofun
      frqti := nofun
      srate := nofun
      down := fun _ => ⟨rfl, rfl, rfl⟩
      rate := .inl rfl
      noError := fun _ => ⟨rfl, rfl⟩
      error := nofun
      voices := fun _ hx => List.eq_of_mem_replicate hx ▸ Voice.reset_ok _ }

theorem hardwareReset_ok {s : State} (hp : s.legalParams = true) : (hardwareReset s).Ok :=
  have hp' : (State.resetWith s.params s.nv).legalParams = true := State.legalParams_of_eq hp rfl (hardwareReset_nv s)
  (resetSatisfiesTheInvariant s.params s.nv hp').withRecordAndPort DefRecord.reset s.pending s.responses

/-- `TDOWN` keeps the capture, which the invariant relates to nothing else. -/
theorem State.Ok.tearDown {s : State} (h : s.Ok) : (tearDown s).Ok :=
  { hardwareReset_ok h.params with
    noError := h.noError
    error := h.error
    voices := fun _ hx => List.eq_of_mem_replicate hx ▸ Voice.reset_ok _ }

/-- Settles O12: the contexts of the reset state are copies of `Voice.reset`, read register by register. -/
theorem resetStateRegisters : Obligations.ResetStateRegisters := by
  refine ⟨rfl, rfl, by decide, rfl, fun k => by cases k <;> rfl, fun _ => rfl, rfl, fun x hx p => ?_⟩
  rw [List.eq_of_mem_replicate hx]
  cases p with
  | defn k => cases k <;> rfl
  | tap t => cases t <;> rfl
  | _ => rfl

/-! ## Commands -/

/-- Whatever state the command answers satisfies the invariant. -/
def KeepsOk (r : Result) : Prop := ∀ t, r = .next t → t.Ok

theorem keepsOk_done {e : State} (h : e.Ok) (d : Word) : KeepsOk (done d e) :=
  fun _ ht => done_eq_next.1 ht ▸ h.respond d

theorem keepsOk_rejected {s : State} (h : s.Ok) {c : Status} (hc : c ≠ .ok) (i : Instr) : KeepsOk (rejected c i s) :=
  fun _ ht => rejected_eq_next.1 ht ▸ h.reject hc _

theorem keepsOk_withVoice {s : State} (h : s.Ok) {v : VoiceNo} {i : Instr} {k : Voice → Result}
    (hk : ∀ x, x.Ok s → KeepsOk (k x)) : KeepsOk (withVoice v i s k) := by
  rcases withVoice_cases (v := v) (i := i) (s := s) (k := k) rfl with ⟨-, hr⟩ | ⟨x, hx, hr⟩
  · rw [hr]; exact keepsOk_rejected h (by decide) i
  · rw [hr]; exact hk x (h.voices x (State.voice?_mem hx))

theorem setDefinition_keepsOk {s : State} (h : s.Ok) (k : DefWord) (i : Instr) (v : VoiceNo) (w : Word) :
    KeepsOk (setDefinition k i v w s) := by
  refine keepsOk_withVoice h fun x hx => ?_
  split
  · next hw => exact keepsOk_done (h.setVoice v (hx.setDef hw)) 0
  · next hw => exact keepsOk_rejected h hw i

theorem setCoefficient_keepsOk {s : State} (h : s.Ok) (t : Tap) (i : Instr) (v : VoiceNo) (w : Word) :
    KeepsOk (setCoefficient t i v w s) :=
  keepsOk_withVoice h fun _ hx => keepsOk_done (h.setVoice v (hx.setTaps _)) 0

theorem execSetsr_keepsOk {s : State} (h : s.Ok) (rate : F32) : KeepsOk (execSetsr rate s) := by
  unfold execSetsr
  split
  · exact keepsOk_rejected h (by decide) _
  next hdown =>
  split
  · next hrate =>
    refine keepsOk_done ?_ 0
    exact
      { h with
        frqti := fun hup => absurd hup hdown
        srate := fun _ => hrate
        rate := .inr hrate
        voices := fun x hx => (h.voices x hx).congr rfl rfl rfl rfl }
  · exact keepsOk_rejected h (by decide) _

/-- `TINIT` finds every context idle and without a cached index, so the new table concerns none of them. -/
theorem execTinit_keepsOk {s : State} (h : s.Ok) (len : Word) : KeepsOk (execTinit len s) := by
  unfold execTinit
  split
  · exact keepsOk_rejected h (by decide) _
  next hdown =>
  split
  · exact keepsOk_rejected h (by decide) _
  next hlen =>
  split
  · exact keepsOk_rejected h (by decide) _
  next hrate =>
  have hlen' : legalLength s.lmax (sext32 len) = true := by simpa using hlen
  have hrate' : legalRate s.srate = true := by simpa using hrate
  refine keepsOk_done ?_ 0
  exact
    { h with
      tlen := fun _ => hlen'
      cosoffs := fun _ => rfl
      frqti := fun _ => rfl
      srate := fun _ => hrate'
      down := nofun
      voices := fun x hx => (h.voices x hx).of_down (by simpa using hdown) _ }

theorem execTlook_keepsOk {s : State} (h : s.Ok) (index : Word) : KeepsOk (execTlook index s) := by
  unfold execTlook
  split
  · exact keepsOk_rejected h (by decide) _
  split
  · exact keepsOk_rejected h (by decide) _
  split
  · exact keepsOk_rejected h (by decide) _
  · exact keepsOk_done h _

theorem execFinit_keepsOk {s : State} (h : s.Ok) (v : VoiceNo) : KeepsOk (execFinit v s) := by
  refine keepsOk_withVoice h fun x hx => ?_
  split
  · exact keepsOk_rejected h (by decide) _
  next hup =>
  split
  · next hinvalid => exact keepsOk_rejected h hinvalid _
  · next hvalid =>
    exact keepsOk_done (h.setVoice v (initVoice_ok hx (by simpa using hup) (by simpa using hvalid) _)) 0

theorem execFreset_keepsOk {s : State} (h : s.Ok) (v : VoiceNo) (phase : Word) : KeepsOk (execFreset v phase s) := by
  refine keepsOk_withVoice h fun x hx => ?_
  split
  · exact keepsOk_rejected h (by decide) _
  · next hseg =>
    exact keepsOk_done (h.setVoice v (envSkip_ok _ _ (restart_ok hx.clearHistory (hx.ready hseg) _))) 0

theorem execRelease_keepsOk {s : State} (h : s.Ok) (v : VoiceNo) : KeepsOk (execRelease v s) := by
  refine keepsOk_withVoice h fun x hx => ?_
  split
  · exact keepsOk_rejected h (by decide) _
  · next hseg => exact keepsOk_done (h.setVoice v (releaseVoice_ok hx hseg _)) 0

theorem execCopy_keepsOk {s : State} (h : s.Ok) (vd vs : VoiceNo) : KeepsOk (execCopy vd vs s) := by
  refine keepsOk_withVoice h fun _ _ => keepsOk_withVoice h fun x hx => ?_
  split
  · exact keepsOk_done h 0
  · exact keepsOk_done (h.setVoice vd hx) 0

theorem execEgen_keepsOk {s : State} (h : s.Ok) (v : VoiceNo) : KeepsOk (execEgen v s) := by
  refine keepsOk_withVoice h fun x hx => ?_
  split
  · exact keepsOk_rejected h (by decide) _
  · exact keepsOk_done (h.setVoice v (envAdvance_ok hx _)) _

theorem execBqsamp_keepsOk {s : State} (h : s.Ok) (v : VoiceNo) (input : F32) : KeepsOk (execBqsamp v input s) :=
  keepsOk_withVoice h fun _ hx => keepsOk_done (h.setVoice v (hx.biquad input)) _

/-- A product in range has its index below `COSOFFS`, so what is cached is in order. -/
theorem execSample_keepsOk {s : State} (h : s.Ok) (v : VoiceNo) (input : F32) : KeepsOk (execSample v input s) := by
  refine keepsOk_withVoice h fun x hx => ?_
  split
  · exact keepsOk_rejected h (by decide) _
  next hup =>
  have hrdy : s.tblRdy = true := by simpa using hup
  split
  · exact keepsOk_rejected h (by decide) _
  have hadv : (envAdvance s.params.expk x).Ok s := envAdvance_ok hx _
  dsimp only [envStep]
  split
  · next hrange =>
    split
    · exact nofun
    · next y hy =>
      have hyok : y.Ok s := State.refresh_ok hadv hrdy (h.floorIdx_lt hrdy hrange) hy
      exact keepsOk_done (h.setVoice v (hyok.biquad input)) _
  · exact keepsOk_done (h.setVoice v hadv) _

theorem execSetenvdef_keepsOk {s : State} (h : s.Ok) (v : VoiceNo) : KeepsOk (execSetenvdef v s) := by
  refine keepsOk_withVoice h fun x hx => ?_
  split
  · next hvalid => exact keepsOk_done (h.setVoice v (hx.loadEnvDef hvalid)) 0
  · next hinvalid => exact keepsOk_rejected h hinvalid _

/-- Every command keeps the invariant. -/
theorem exec_keepsOk {s : State} (h : s.Ok) (i : Instr) : KeepsOk (exec i s) := by
  cases i with
  | tinit len => exact execTinit_keepsOk h len
  | tdown => exact keepsOk_done h.tearDown 0
  | setsr rate => exact execSetsr_keepsOk h rate
  | tlook index => exact execTlook_keepsOk h index
  | getg g => exact keepsOk_done h _
  | finit v => exact execFinit_keepsOk h v
  | freset v phase => exact execFreset_keepsOk h v phase
  | release v => exact execRelease_keepsOk h v
  | copy vd vs => exact execCopy_keepsOk h vd vs
  | sample v x => exact execSample_keepsOk h v x
  | bqsamp v x => exact execBqsamp_keepsOk h v x
  | egen v => exact execEgen_keepsOk h v
  | getp v p => exact keepsOk_withVoice h fun _ _ => keepsOk_done h _
  | defwr k w => exact keepsOk_done (h.withRecordAndPort _ s.pending s.responses) 0
  | defrd k => exact keepsOk_done h _
  | getenvdef v =>
    exact keepsOk_withVoice h fun _ _ => keepsOk_done (h.withRecordAndPort _ s.pending s.responses) 0
  | setenvdef v => exact execSetenvdef_keepsOk h v
  | setin0 v w | setin1 v w | setin2 v w | setout1 v w | setout2 v w => exact setCoefficient_keepsOk h _ _ v w
  | setstart v w | setatkrt v w | setatklvl v w | setdecrt v w | setsuslvl v w | setrelrt v w | setrellvl v w
  | settype v w | setgain v w | setftype v w => exact setDefinition_keepsOk h _ _ v w

theorem execWord_keepsOk {s : State} (h : s.Ok) (w : Cmd) : KeepsOk (execWord w s) := by
  cases hdec : decode s.nv w with
  | error c =>
    rw [execWord, hdec]
    exact fun t ht => Host.Outcome.next.inj ht ▸ h.reject (decode_error_ne_ok hdec) w
  | ok i => rw [execWord_of_decode hdec]; exact exec_keepsOk h i

/-- Settles O19: a command keeps the invariant by `exec_keepsOk`, and reset brings it about. -/
theorem stepKeepsTheInvariant : Obligations.StepKeepsTheInvariant := by
  intro s t h hstep
  obtain ⟨-, ⟨-, rfl⟩ | ⟨i, rest, -, hexec⟩⟩ := step_cases hstep
  · exact h
  · have hrest : ({ s with pending := rest } : State).Ok := h.withRecordAndPort s.defs rest s.responses
    cases i with
    | command w => exact execWord_keepsOk hrest w t hexec
    | hardReset => exact Host.Outcome.next.inj hexec ▸ hardwareReset_ok hrest.params

/-! ## Runs -/

/-- What every step keeps, every run keeps. -/
theorem runSteps_keeps {P : State → Prop} (hstep : ∀ s t, P s → step s = .next t → P t) {n : Nat} {s t : State}
    (h : P s) (hrun : runSteps n s = some t) : P t := by
  induction n generalizing s with
  | zero => exact Option.some.inj hrun ▸ h
  | succ n ih =>
    unfold runSteps at hrun
    split at hrun
    · next s' hs' => exact ih (hstep s s' h hs') hrun
    · cases hrun
    · cases hrun

/-- Outside the constraints of the parameters only the empty run ends in a state (93_implementation_defined U28). -/
theorem runSteps_of_illegalParams {n : Nat} {s t : State} (hp : ¬s.legalParams = true) (hrun : runSteps n s = some t) :
    t = s := by
  cases n with
  | zero => exact (Option.some.inj hrun).symm
  | succ n => rw [runSteps, step, if_neg hp] at hrun; cases hrun

/-- The contexts of a state reached from reset are in order, with legal parameters or not. -/
theorem reachable_voice_ok {p : Params} {nv : Nat} {inputs : List Input} {n : Nat} {t : State}
    (hrun : runSteps n { State.resetWith p nv with pending := inputs } = some t) {x : Voice} (hx : x ∈ t.voices) :
    x.Ok t ∧ (t.tblRdy = true → t.Ok) := by
  by_cases hp : (State.resetWith p nv).legalParams = true
  · have hreset : ({ State.resetWith p nv with pending := inputs } : State).Ok :=
      (resetSatisfiesTheInvariant p nv hp).withRecordAndPort DefRecord.reset inputs []
    have hok : t.Ok := runSteps_keeps stepKeepsTheInvariant hreset hrun
    exact ⟨hok.voices x hx, fun _ => hok⟩
  · obtain rfl := runSteps_of_illegalParams (s := { State.resetWith p nv with pending := inputs }) hp hrun
    exact ⟨List.eq_of_mem_replicate hx ▸ Voice.reset_ok _, nofun⟩

theorem Curve.word_le (c : Curve) : c.word.toNat ≤ 1 := by cases c <;> decide

theorem Seg.word_le (g : Seg) : g.word.toNat ≤ 5 := by cases g <;> decide

/-- A cached index is a table index read as a signed word (R58, R66 (e)). -/
theorem Voice.Ok.lastIdx_range {s : State} {x : Voice} (h : x.Ok s) (hs : s.tblRdy = true → s.Ok) :
    x.lastIdx.toInt = -1 ∨
      (s.tblRdy = true ∧ 0 ≤ x.lastIdx.toInt ∧ x.lastIdx.toInt < s.cosoffs.toInt) := by
  rcases h.cacheRange with hno | ⟨hrdy, hlt⟩
  · exact .inl (by rw [hno]; decide)
  · obtain ⟨k, -, hk, -, -, -, hnat, hint⟩ := (hs hrdy).length hrdy
    have hpow : 2 ^ (k - 2) ≤ 2 ^ 24 := Nat.pow_le_pow_right (by decide) (by omega)
    have hcos : s.cosoffs.toInt = s.cosoffs.toNat := by rw [hint, hnat]; simp
    have hlt' : x.lastIdx.toNat < s.cosoffs.toNat := hlt
    have hidx : x.lastIdx.toInt = x.lastIdx.toNat := BitVec.toInt_eq_toNat_of_lt (by omega)
    exact .inr ⟨hrdy, by omega, by omega⟩

/-- Settles O21: the run keeps the invariant, which says R66 clause by clause. -/
theorem reachableVoicesAreConsistent : Obligations.ReachableVoicesAreConsistent := by
  intro p nv inputs n t hrun x hx
  obtain ⟨hok, hs⟩ := reachable_voice_ok hrun hx
  refine ⟨⟨hok.atkRt, hok.decRt, hok.relRt⟩,
    ⟨Curve.word_le x.curve, Curve.word_le x.crv, rfl, Seg.word_le x.seg⟩, fun hseg => ?_, fun hseg => ?_,
    hok.lastIdx_range hs, fun hidx => hok.cache ?_, hok.ready⟩
  · have hlt : x.pos.toNat < x.cnt.toNat := (hok.ramp (Seg.isRamp_eq_true.2 hseg)).1
    exact ⟨by omega, hlt⟩
  · obtain ⟨hpos, hcnt, -⟩ := hok.hold (Seg.isRamp_eq_false.2 hseg)
    exact ⟨hpos, hcnt⟩
  · intro hno
    rw [hno] at hidx
    exact absurd hidx (by decide)

end Sys2Proof.Machine
end

section
/-! The machine goes on from every state of the invariant (20_memory R71; 30_encoding R102; 60_exceptions R258, R259). -/

namespace Sys2Proof.Machine

/-! ## What goes on -/

theorem goesOn_next (t : State) : Result.goesOn (.next t) := ⟨t, rfl⟩

theorem goesOn_done (d : Word) (s : State) : (done d s).goesOn := goesOn_next _

theorem goesOn_rejected (c : Status) (i : Instr) (s : State) : (rejected c i s).goesOn := goesOn_next _

theorem goesOn_ite {p : Prop} [Decidable p] {r r' : Result} (h : p → r.goesOn) (h' : ¬p → r'.goesOn) :
    (if p then r else r').goesOn := by
  split
  · next hp => exact h hp
  · next hp => exact h' hp

/-- A check that rejects where it fails. -/
theorem goesOn_check {p : Prop} [Decidable p] {c : Status} {i : Instr} {s : State} {r : Result} (h : ¬p → r.goesOn) :
    (if p then rejected c i s else r).goesOn :=
  goesOn_ite (fun _ => goesOn_rejected _ _ _) h

theorem goesOn_withVoice {v : VoiceNo} {i : Instr} {s : State} {k : Voice → Result} (h : ∀ x, (k x).goesOn) :
    (withVoice v i s k).goesOn := by
  rcases withVoice_cases (v := v) (i := i) (s := s) (k := k) rfl with ⟨-, hr⟩ | ⟨x, -, hr⟩ <;> rw [hr]
  · exact goesOn_rejected _ _ _
  · exact h x

/-! ## `SAMPLE` (R71) -/

/-- An index below `COSOFFS` is cached already, or its coefficients can be computed. -/
theorem State.Ok.exists_refresh {s : State} (h : s.Ok) (hrdy : s.tblRdy = true) {idx : Nat}
    (hidx : idx < zext32 s.cosoffs) (x : Voice) : ∃ y, s.refresh idx x = some y := by
  by_cases hcached : BitVec.ofNat 32 idx = x.lastIdx
  · exact ⟨x, State.refresh_eq_some.2 (.inl ⟨hcached, rfl⟩)⟩
  · exact ⟨_, State.refresh_eq_some.2 (.inr ⟨hcached, _, h.coefLP_isSome hrdy hidx, rfl⟩)⟩

/-- A product in range has its index below `COSOFFS`, so `SAMPLE` never reads outside the table. -/
theorem execSample_goesOn {s : State} (h : s.Ok) (v : VoiceNo) (input : F32) : (execSample v input s).goesOn := by
  refine goesOn_withVoice fun x => goesOn_check fun hup => goesOn_check fun _ =>
    goesOn_ite (fun hrange => ?_) fun _ => goesOn_done _ _
  have hrdy : s.tblRdy = true := by simpa using hup
  obtain ⟨y, hy⟩ := h.exists_refresh hrdy (h.floorIdx_lt hrdy hrange) (envAdvance s.params.expk x)
  dsimp only [envStep]
  rw [hy]
  exact goesOn_done _ _

/-! ## The other commands, from any state -/

theorem execTinit_goesOn (len : Word) (s : State) : (execTinit len s).goesOn :=
  goesOn_check fun _ => goesOn_check fun _ => goesOn_check fun _ => goesOn_done _ _

theorem execSetsr_goesOn (rate : F32) (s : State) : (execSetsr rate s).goesOn :=
  goesOn_check fun _ => goesOn_ite (fun _ => goesOn_done _ _) fun _ => goesOn_rejected _ _ _

theorem execTlook_goesOn (index : Word) (s : State) : (execTlook index s).goesOn := by
  refine goesOn_check fun _ => goesOn_check fun _ => ?_
  split
  · exact goesOn_rejected _ _ _
  · exact goesOn_done _ _

theorem setDefinition_goesOn (k : DefWord) (i : Instr) (v : VoiceNo) (w : Word) (s : State) :
    (setDefinition k i v w s).goesOn :=
  goesOn_withVoice fun _ => goesOn_ite (fun _ => goesOn_done _ _) fun _ => goesOn_rejected _ _ _

theorem setCoefficient_goesOn (t : Tap) (i : Instr) (v : VoiceNo) (w : Word) (s : State) :
    (setCoefficient t i v w s).goesOn :=
  goesOn_withVoice fun _ => goesOn_done _ _

/-- No command stops the machine in a state of the invariant. -/
theorem exec_goesOn {s : State} (h : s.Ok) (i : Instr) : Result.goesOn (exec i s) := by
  cases i with
  | tinit len => exact execTinit_goesOn len s
  | setsr rate => exact execSetsr_goesOn rate s
  | tlook index => exact execTlook_goesOn index s
  | tdown | getg _ | defwr _ _ | defrd _ => exact goesOn_done _ _
  | finit v =>
    exact goesOn_withVoice fun _ => goesOn_check fun _ => goesOn_check fun _ => goesOn_done _ _
  | freset v _ | release v | egen v =>
    exact goesOn_withVoice fun _ => goesOn_check fun _ => goesOn_done _ _
  | copy vd vs =>
    refine goesOn_withVoice fun _ => goesOn_withVoice fun _ => ?_
    exact goesOn_ite (fun _ => goesOn_done _ _) fun _ => goesOn_done _ _
  | sample v x => exact execSample_goesOn h v x
  | bqsamp v _ | getp v _ | getenvdef v => exact goesOn_withVoice fun _ => goesOn_done _ _
  | setenvdef v =>
    exact goesOn_withVoice fun _ => goesOn_ite (fun _ => goesOn_done _ _) fun _ => goesOn_rejected _ _ _
  | setin0 v w | setin1 v w | setin2 v w | setout1 v w | setout2 v w => exact setCoefficient_goesOn _ _ v w s
  | setstart v w | setatkrt v w | setatklvl v w | setdecrt v w | setsuslvl v w | setrelrt v w | setrellvl v w
  | settype v w | setgain v w | setftype v w => exact setDefinition_goesOn _ _ v w s

theorem execWord_goesOn {s : State} (h : s.Ok) (w : Cmd) : Result.goesOn (execWord w s) := by
  cases hdec : decode s.nv w with
  | error c => rw [execWord, hdec]; exact goesOn_next _
  | ok i => rw [execWord_of_decode hdec]; exact exec_goesOn h i

/-- Settles O22: the parameters are legal, and of the commands only `SAMPLE` could stop, on a table read that the
invariant keeps in range. -/
theorem noStepStops : Obligations.NoStepStops := by
  intro s h
  cases hpending : s.pending with
  | nil => exact ⟨s, step_of_idle h.params hpending⟩
  | cons i rest =>
    rw [step_of_input h.params hpending]
    cases i with
    | command w => exact execWord_goesOn (h.withRecordAndPort s.defs rest s.responses) w
    | hardReset => exact goesOn_next _

end Sys2Proof.Machine
end

section
/-! Noninterference of the voices (10_state R31; 20_memory R81). A command that names one voice is a function of the
globals, the definition record and that voice's context: started in two states that agree in these, it answers alike and
leaves them agreeing. -/

namespace Sys2Proof.Machine

/-! ## What a command on one voice reads -/

/-- The two states agree in what commands on voice `v` read, and in their `n` newest responses. -/
structure AgreeOn (v : VoiceNo) (n : Nat) (s s' : State) : Prop where
  params : s'.params = s.params
  tblRdy : s'.tblRdy = s.tblRdy
  tlen : s'.tlen = s.tlen
  frqti : s'.frqti = s.frqti
  cosoffs : s'.cosoffs = s.cosoffs
  defs : s'.defs = s.defs
  voice : s'.voice? v = s.voice? v
  responses : s'.responses.take n = s.responses.take n

theorem AgreeOn.refl (v : VoiceNo) (n : Nat) (s : State) : AgreeOn v n s s :=
  ⟨rfl, rfl, rfl, rfl, rfl, rfl, rfl, rfl⟩

theorem AgreeOn.inRange {v : VoiceNo} {n : Nat} {s s' : State} (h : AgreeOn v n s s') : s'.inRange = s.inRange := by
  funext p
  rw [State.inRange, h.cosoffs, State.inRange]

theorem AgreeOn.refresh {v : VoiceNo} {n : Nat} {s s' : State} (h : AgreeOn v n s s') : s'.refresh = s.refresh := by
  funext idx x
  rw [State.refresh, State.coefLP_congr h.tblRdy h.tlen h.params h.cosoffs, State.refresh]

theorem State.voice?_setVoice_map (s : State) (v : VoiceNo) (y : Voice) :
    (s.setVoice v y).voice? v = (s.voice? v).map fun _ => y := by
  cases hv : s.voice? v with
  | none => exact State.voice?_eq_none.2 (by rw [State.setVoice_nv]; exact State.voice?_eq_none.1 hv)
  | some x => exact State.voice?_setVoice (State.lt_nv_of_voice? hv) y

theorem AgreeOn.respond {v : VoiceNo} {n : Nat} {s s' : State} (h : AgreeOn v n s s') (d : Word) :
    AgreeOn v (n + 1) (respond d s) (respond d s') :=
  { h with responses := congrArg (_ :: ·) h.responses }

theorem AgreeOn.reject {v : VoiceNo} {n : Nat} {s s' : State} (h : AgreeOn v n s s') (c : Status) (w : Cmd) :
    AgreeOn v (n + 1) (reject c w s) (reject c w s') := by
  rw [reject_eq, reject_eq]
  exact { h with responses := congrArg (_ :: ·) h.responses }

theorem AgreeOn.setVoice {v : VoiceNo} {n : Nat} {s s' : State} (h : AgreeOn v n s s') (y : Voice) :
    AgreeOn v n (s.setVoice v y) (s'.setVoice v y) :=
  { h with voice := by rw [State.voice?_setVoice_map, State.voice?_setVoice_map, h.voice] }

theorem AgreeOn.withDefs {v : VoiceNo} {n : Nat} {s s' : State} (h : AgreeOn v n s s') (d : DefRecord) :
    AgreeOn v n { s with defs := d } { s' with defs := d } :=
  { h with defs := rfl }

/-! ## What it does with it -/

/-- The command `i` on voice `v` ends alike in the two states: the same cause, or the same answer with the same context
stored, or (`GETENVDEF` alone) the same record, or a stop. -/
inductive SameEnd (i : Instr) (v : VoiceNo) (s s' : State) : Result → Result → Prop
  | rejected (c : Status) : SameEnd i v s s' (.next (reject c (encode i) s)) (.next (reject c (encode i) s'))
  | answered (d : Word) : SameEnd i v s s' (.next (respond d s)) (.next (respond d s'))
  | stored (d : Word) (y : Voice) :
    SameEnd i v s s' (.next (respond d (s.setVoice v y))) (.next (respond d (s'.setVoice v y)))
  | recorded (d : Word) (r : DefRecord) (h : i = .getenvdef v) :
    SameEnd i v s s' (.next (respond d { s with defs := r })) (.next (respond d { s' with defs := r }))
  | stopped (f : Fault) : SameEnd i v s s' (.fault f) (.fault f)

section
variable {i : Instr} {v : VoiceNo} {n : Nat} {s s' : State}

theorem sameEnd_ite {p : Prop} [Decidable p] {a a' b b' : Result} (ha : p → SameEnd i v s s' a a')
    (hb : ¬p → SameEnd i v s s' b b') : SameEnd i v s s' (if p then a else b) (if p then a' else b') := by
  by_cases hp : p
  · simpa only [if_pos hp] using ha hp
  · simpa only [if_neg hp] using hb hp

theorem sameEnd_withVoice (h : AgreeOn v n s s') {k k' : Voice → Result}
    (hk : ∀ x, SameEnd i v s s' (k x) (k' x)) : SameEnd i v s s' (withVoice v i s k) (withVoice v i s' k') := by
  cases hv : s.voice? v with
  | none =>
    rw [withVoice_none hv, withVoice_none (h.voice.trans hv)]
    exact .rejected _
  | some x =>
    rw [withVoice_some hv, withVoice_some (h.voice.trans hv)]
    exact hk x

theorem setDefinition_sameEnd (h : AgreeOn v n s s') (k : DefWord) (w : Word) :
    SameEnd i v s s' (setDefinition k i v w s) (setDefinition k i v w s') :=
  sameEnd_withVoice h fun _ => sameEnd_ite (fun _ => .stored _ _) fun _ => .rejected _

theorem setCoefficient_sameEnd (h : AgreeOn v n s s') (t : Tap) (w : Word) :
    SameEnd i v s s' (setCoefficient t i v w s) (setCoefficient t i v w s') :=
  sameEnd_withVoice h fun _ => .stored _ _

theorem execFinit_sameEnd (h : AgreeOn v n s s') :
    SameEnd (.finit v) v s s' (execFinit v s) (execFinit v s') := by
  refine sameEnd_withVoice h fun x => ?_
  rw [h.tblRdy, h.defs, h.params]
  exact sameEnd_ite (fun _ => .rejected _) fun _ => sameEnd_ite (fun _ => .rejected _) fun _ => .stored _ _

/-- `SAMPLE` reads the most: the table, `FRQTI` and `COSOFFS` besides the context. -/
theorem execSample_sameEnd (h : AgreeOn v n s s') (input : F32) :
    SameEnd (.sample v input) v s s' (execSample v input s) (execSample v input s') := by
  refine sameEnd_withVoice h fun x => ?_
  rw [h.tblRdy, h.params, h.frqti, h.inRange, h.refresh]
  refine sameEnd_ite (fun _ => .rejected _) fun _ => sameEnd_ite (fun _ => .rejected _) fun _ =>
    sameEnd_ite (fun _ => ?_) fun _ => .stored _ _
  dsimp only [envStep]
  cases s.refresh (floorIdx (fmul x.lvl s.frqti)) (envAdvance s.params.expk x) with
  | none => exact .stopped _
  | some y => exact .stored _ _

theorem execCopy_sameEnd (h : AgreeOn v n s s') :
    SameEnd (.copy v v) v s s' (execCopy v v s) (execCopy v v s') :=
  sameEnd_withVoice h fun _ => sameEnd_withVoice h fun _ => sameEnd_ite (fun _ => .answered _) fun _ => .stored _ _

theorem execGetenvdef_sameEnd (h : AgreeOn v n s s') :
    SameEnd (.getenvdef v) v s s' (execGetenvdef v s) (execGetenvdef v s') := by
  refine sameEnd_withVoice h fun x => ?_
  rw [h.defs]
  exact .recorded _ _ rfl

theorem execSetenvdef_sameEnd (h : AgreeOn v n s s') :
    SameEnd (.setenvdef v) v s s' (execSetenvdef v s) (execSetenvdef v s') := by
  refine sameEnd_withVoice h fun x => ?_
  rw [h.defs]
  exact sameEnd_ite (fun _ => .stored _ _) fun _ => .rejected _

end

/-- The command names voice `v` and no other. -/
def NamesOnly (v : VoiceNo) (i : Instr) : Prop := i.voices ≠ [] ∧ ∀ u ∈ i.voices, u = v

/-- A command that names one voice ends alike in states that agree in what it reads. -/
theorem exec_sameEnd {v : VoiceNo} {n : Nat} {s s' : State} (h : AgreeOn v n s s') {i : Instr} (hi : NamesOnly v i) :
    SameEnd i v s s' (exec i s) (exec i s') := by
  obtain ⟨hsome, hv⟩ := hi
  cases i with
  | tinit _ | tdown | setsr _ | tlook _ | getg _ | defwr _ _ | defrd _ => exact absurd rfl hsome
  | copy vd vs =>
    obtain rfl : vd = v := hv vd (.head _)
    obtain rfl : vs = vd := hv vs (.tail _ (.head _))
    exact execCopy_sameEnd h
  | finit u => obtain rfl := hv u (.head _); exact execFinit_sameEnd h
  | freset u _ | release u | egen u =>
    obtain rfl := hv u (.head _)
    refine sameEnd_withVoice h fun x => ?_
    rw [h.params]
    exact sameEnd_ite (fun _ => .rejected _) fun _ => .stored _ _
  | sample u x => obtain rfl := hv u (.head _); exact execSample_sameEnd h x
  | bqsamp u _ => obtain rfl := hv u (.head _); exact sameEnd_withVoice h fun _ => .stored _ _
  | getp u _ => obtain rfl := hv u (.head _); exact sameEnd_withVoice h fun _ => .answered _
  | getenvdef u => obtain rfl := hv u (.head _); exact execGetenvdef_sameEnd h
  | setenvdef u => obtain rfl := hv u (.head _); exact execSetenvdef_sameEnd h
  | setin0 u w | setin1 u w | setin2 u w | setout1 u w | setout2 u w =>
    obtain rfl := hv u (.head _)
    exact setCoefficient_sameEnd h _ w
  | setstart u w | setatkrt u w | setatklvl u w | setdecrt u w | setsuslvl u w | setrelrt u w | setrellvl u w
  | settype u w | setgain u w | setftype u w =>
    obtain rfl := hv u (.head _)
    exact setDefinition_sameEnd h _ w

/-! ## Sequences of commands on one voice -/

/-- Ending alike is stopping alike, or leaving states that agree, the response given among what they agree in. -/
theorem SameEnd.cases {i : Instr} {v : VoiceNo} {n : Nat} {s s' : State} {r r' : Result} (h : AgreeOn v n s s')
    (hend : SameEnd i v s s' r r') :
    (∃ f, r = .fault f ∧ r' = .fault f) ∨ ∃ t t', r = .next t ∧ r' = .next t' ∧ AgreeOn v (n + 1) t t' := by
  cases hend with
  | stopped f => exact .inl ⟨f, rfl, rfl⟩
  | rejected c => exact .inr ⟨_, _, rfl, rfl, h.reject c _⟩
  | answered d => exact .inr ⟨_, _, rfl, rfl, h.respond d⟩
  | stored d y => exact .inr ⟨_, _, rfl, rfl, (h.setVoice y).respond d⟩
  | recorded d r _ => exact .inr ⟨_, _, rfl, rfl, (h.withDefs r).respond d⟩

/-- The commands of a list on voice `v` stop in both states or in neither, and what they end in agrees, all their
responses included. -/
theorem execAll_agreeOn {v : VoiceNo} {is : List Instr} (his : ∀ j ∈ is, NamesOnly v j) {n : Nat} {s s' : State}
    (h : AgreeOn v n s s') : Option.Rel (AgreeOn v (n + is.length)) (execAll is s) (execAll is s') := by
  induction is generalizing n s s' with
  | nil => exact .some h
  | cons j js ih =>
    obtain ⟨hj, hjs⟩ := List.forall_mem_cons.1 his
    rcases (exec_sameEnd h hj).cases h with ⟨f, hr, hr'⟩ | ⟨t, t', hr, hr', ht⟩
    · simp only [execAll, hr, hr']
      exact .none
    · simp only [execAll, hr, hr', List.length_cons, Nat.add_comm js.length 1, ← Nat.add_assoc]
      exact ih hjs ht

/-! ## A command on another voice -/

/-- Unless it writes the record, a command on voice `a` leaves everything that commands on voice `b` read. -/
theorem exec_agreeOn_other {a b : VoiceNo} (hab : a ≠ b) {i : Instr} (hi : NamesOnly a i) (hdef : i ≠ .getenvdef a)
    {s s' : State} (hexec : exec i s = .next s') : AgreeOn b 0 s s' := by
  have hend : SameEnd i a s s (exec i s) (exec i s) := exec_sameEnd (AgreeOn.refl a 0 s) hi
  rw [hexec] at hend
  cases hend with
  | rejected c => rw [reject_eq]; exact ⟨rfl, rfl, rfl, rfl, rfl, rfl, rfl, rfl⟩
  | answered d => exact ⟨rfl, rfl, rfl, rfl, rfl, rfl, rfl, rfl⟩
  | stored d y => exact ⟨rfl, rfl, rfl, rfl, rfl, rfl, State.voice?_setVoice_ne s hab.symm y, rfl⟩
  | recorded d r h => exact absurd h hdef

/-- Settles O25: the command on `a` leaves a state that agrees with the old one in what `b` reads, and the commands on
`b` carry the agreement along. -/
theorem voicesDoNotInterfere : Obligations.VoicesDoNotInterfere := by
  intro a b i is s s' hab hi hdef his hexec
  have hnames : NamesOnly a i := by simp [NamesOnly, hi]
  have hrel := execAll_agreeOn his (exec_agreeOn_other hab hnames hdef hexec)
  rw [Nat.zero_add] at hrel
  generalize execAll is s = o at hrel ⊢
  generalize execAll is s' = o' at hrel ⊢
  cases hrel with
  | none => exact ⟨rfl, fun _ _ ht => nomatch ht⟩
  | some h =>
    refine ⟨rfl, fun t t' ht ht' => ?_⟩
    cases ht
    cases ht'
    exact ⟨h.voice, h.responses⟩

end Sys2Proof.Machine
end

section
/-! The byte layout of command words and responses (20_memory R74), and the constants of a session (R72; 40_table
R127). -/

namespace Sys2Proof.Machine

/-! ## Bytes -/

/-- The eight bytes, the last of them the most significant, make up the word. -/
theorem cmdOfBytes_bytesOfCmd (w : Cmd) : cmdOfBytes (bytesOfCmd w) = some w := by
  simp only [bytesOfCmd, cmdOfBytes, Option.some.injEq]
  ext i hi
  simp only [BitVec.getElem_append, BitVec.getElem_extractLsb']
  repeat' split
  all_goals
    rw [BitVec.getLsbD_eq_getElem (by omega)]
    congr 1
    omega

theorem cmdOfBits_toNat (w : Cmd) : cmdOfBits 64 w.toNat = w := by
  rw [cmdOfBits, Nat.mod_eq_of_lt w.isLt, BitVec.ofNat_toNat, BitVec.setWidth_eq]

theorem decodeTableWord_toNat (w : Cmd) (i : Instr) :
    decodeTableWord 64 w.toNat = some i ↔ decode Params.defaultNV w = .ok i := by
  rw [decodeTableWord, cmdOfBits_toNat, cmdOfBytes_bytesOfCmd]
  cases hdec : decode Params.defaultNV w <;> simp [hdec]

theorem Response.word_data (r : Response) : r.word.extractLsb' 0 32 = r.data :=
  BitVec.extractLsb'_append_eq_right

theorem Response.word_status (r : Response) : r.word.extractLsb' 32 8 = r.status.code := by
  have h : r.word.extractLsb' 32 8 = (0#24 ++ r.status.code).extractLsb' 0 8 :=
    BitVec.extractLsb'_append_eq_of_le (by decide)
  rw [h]
  exact BitVec.extractLsb'_append_eq_right

theorem Response.word_high (r : Response) : r.word.extractLsb' 40 24 = 0 := by
  have h : r.word.extractLsb' 40 24 = (0#24 ++ r.status.code).extractLsb' 8 24 :=
    BitVec.extractLsb'_append_eq_of_le (by decide)
  rw [h]
  exact BitVec.extractLsb'_append_eq_left

/-- Settles O6: the layout read back is the word, a response's fields stand in their bytes, and the table's 64 bits are a
word's. -/
theorem layoutIsLittleEndian : Obligations.LayoutIsLittleEndian :=
  ⟨fun _ => rfl, cmdOfBytes_bytesOfCmd, fun r => ⟨r.word_data, r.word_status, r.word_high⟩, decodeTableWord_toNat⟩

/-! ## Session -/

/-- Settles O23: a rejection leaves the globals alone, `Carried` says so of a command carried out, and the table is a
function of them (10_state R45). -/
theorem sessionConstantsStay : Obligations.SessionConstantsStay := by
  intro i s t hrdy hi hexec
  rcases exec_shape i s with ⟨c, -, hr⟩ | ⟨d, e, hr, he⟩ | hr <;> rw [hr] at hexec <;> cases hexec
  · have hwt : (reject c (encode i) s).wt = s.wt := State.wt_congr (by simp) (by simp) (by simp)
    simp [hrdy, hwt]
  · obtain ⟨hrdy', hlen, hcos, hfrq, hrate⟩ := he.session hrdy hi
    have hwt : (respond d e).wt = s.wt := State.wt_congr (hrdy'.trans hrdy.symm) hlen he.params
    exact ⟨hrdy', hlen, hcos, hfrq, hrate, fun k => congrFun hwt k⟩

end Sys2Proof.Machine
end

section
/-! The decoder check by check (30_encoding R97), and the round trips between a command and its word (R91, R95, R99,
R107). -/

namespace Sys2Proof

/-! ## The opcode of a command -/

/-- The opcode a command is encoded with (30_encoding R95); the fifteen setters share one. -/
def Instr.opcode : Instr → Opcode
  | .tinit _ => .tinit
  | .tdown => .tdown
  | .setsr _ => .setsr
  | .tlook _ => .tlook
  | .getg _ => .getg
  | .finit _ => .finit
  | .freset _ _ => .freset
  | .release _ => .release
  | .copy _ _ => .copy
  | .sample _ _ => .sample
  | .bqsamp _ _ => .bqsamp
  | .egen _ => .egen
  | .getp _ _ => .getp
  | .defwr _ _ => .defwr
  | .defrd _ => .defrd
  | .getenvdef _ => .getenvdef
  | .setenvdef _ => .setenvdef
  | .setstart _ _ | .setatkrt _ _ | .setatklvl _ _ | .setdecrt _ _ | .setsuslvl _ _ | .setrelrt _ _ | .setrellvl _ _
  | .settype _ _ | .setgain _ _ | .setftype _ _
  | .setin0 _ _ | .setin1 _ _ | .setin2 _ _ | .setout1 _ _ | .setout2 _ _ => .set

theorem opcode_setDefInstr (v : VoiceNo) (w : Word) (k : DefWord) : (setDefInstr v w k).opcode = .set := by
  cases k <;> rfl

theorem opcode_setTapInstr (v : VoiceNo) (w : Word) (t : Tap) : (setTapInstr v w t).opcode = .set := by
  cases t <;> rfl

theorem encode_setDefInstr (v : VoiceNo) (w : Word) (k : DefWord) : encode (setDefInstr v w k) = packSet v k.sel w := by
  cases k <;> rfl

theorem encode_setTapInstr (v : VoiceNo) (w : Word) (t : Tap) : encode (setTapInstr v w t) = packSet v t.sel w := by
  cases t <;> rfl

/-! ## The checks of the decoder (R97) -/

/-- Steps 2 to 4, for a word whose opcode is known. -/
theorem decode_of_opField {nv : Nat} {w : Cmd} {o : Opcode} (h : opField w = o.byte) :
    decode nv w =
      if reservedViolated o.format w then .error .rsvdField
      else if voiceViolated nv o w then .error .badVoice
      else (selectInstr o (vField w) (aField w) (immField w)).elim (.error .badSelector) .ok := by
  simp only [decode, h, Opcode.ofByte_byte]
  cases selectInstr o (vField w) (aField w) (immField w) <;> rfl

/-- A word is accepted when all four checks pass. -/
theorem decode_eq_ok_iff {nv : Nat} {w : Cmd} {i : Instr} :
    decode nv w = .ok i ↔
      ∃ o : Opcode, o.byte = opField w ∧ reservedViolated o.format w = false ∧ voiceViolated nv o w = false ∧
        selectInstr o (vField w) (aField w) (immField w) = some i := by
  constructor
  · intro h
    cases ho : Opcode.ofByte (opField w) with
    | none => simp [decode, ho] at h
    | some o =>
      have hop := Opcode.byte_of_ofByte ho
      rw [decode_of_opField hop.symm] at h
      split at h
      · cases h
      next hrsvd =>
      split at h
      · cases h
      next hvoice =>
      cases hsel : selectInstr o (vField w) (aField w) (immField w) with
      | none => rw [hsel] at h; cases h
      | some j =>
        rw [hsel] at h
        cases h
        exact ⟨o, hop, by simpa using hrsvd, by simpa using hvoice, hsel⟩
  · rintro ⟨o, hop, hrsvd, hvoice, hsel⟩
    simp only [decode_of_opField hop.symm, hrsvd, hvoice, hsel, Bool.false_eq_true, if_false, Option.elim_some]

theorem reservedViolated_eq_false_iff {f : Format} {w : Cmd} :
    reservedViolated f w = false ↔
      zField w = 0 ∧ (f.usesV = false → vField w = 0) ∧ (f.usesA = false → aField w = 0) ∧
        (f.usesImm = false → immField w = 0) := by
  simp only [reservedViolated, Bool.or_eq_false_iff, Bool.and_eq_false_iff, Bool.not_eq_false', bne_eq_false_iff_eq,
    Decidable.or_iff_not_imp_left, Bool.not_eq_true, and_assoc]

/-! ## The word of a command passes the checks -/

theorem opField_encode (i : Instr) : opField (encode i) = i.opcode.byte := by
  cases i <;> exact opField_packCmd ..

/-- The encoder leaves the fields a format does not use at zero (R99). -/
theorem reservedViolated_encode (i : Instr) : reservedViolated i.opcode.format (encode i) = false := by
  rw [reservedViolated_eq_false_iff]
  cases i <;>
    simp [encode, packSet, Instr.opcode, Opcode.format, Format.usesV, Format.usesA, Format.usesImm]

/-- Step 3 on the word of a command is well-formedness. -/
theorem voiceViolated_encode_eq_false_iff {nv : Nat} {i : Instr} :
    voiceViolated nv i.opcode (encode i) = false ↔ i.wf nv = true := by
  cases i <;>
    simp [voiceViolated, encode, packSet, Instr.opcode, Opcode.format, Format.usesV, Instr.wf, Instr.voices]

theorem selectInstr_encode (i : Instr) :
    selectInstr i.opcode (vField (encode i)) (aField (encode i)) (immField (encode i)) = some i := by
  cases i <;> simp [encode, packSet, Instr.opcode, selectInstr] <;> rfl

/-- Settles O1: the word of a command passes each check of the decoder, and the last one gives the command. -/
theorem encodedCommandDecodesBack : Obligations.EncodedCommandDecodesBack := by
  intro nv i hwf
  exact decode_eq_ok_iff.2
    ⟨i.opcode, (opField_encode i).symm, reservedViolated_encode i, voiceViolated_encode_eq_false_iff.2 hwf,
      selectInstr_encode i⟩

theorem decode_of_encode_eq {nv : Nat} {w : Cmd} {i : Instr} (hw : encode i = w) (hwf : i.wf nv = true) :
    decode nv w = .ok i :=
  hw ▸ encodedCommandDecodesBack nv i hwf

/-- Settles O5: each worked word is the word of its command. -/
theorem workedEncodingsDecode : Obligations.WorkedEncodingsDecode := by
  refine ⟨?_, ?_, ?_, ?_, ?_, ?_, ?_, ?_, ?_⟩ <;> exact decode_of_encode_eq (by decide) (by decide)

/-! ## The command the decoder selects -/

theorem opcode_of_selectInstr {o : Opcode} {v : VoiceNo} {a : BitVec 8} {imm : Word} {i : Instr}
    (h : selectInstr o v a imm = some i) : i.opcode = o := by
  cases o
  case set =>
    simp only [selectInstr, Option.or_eq_some_iff, Option.map_eq_some_iff] at h
    rcases h with ⟨k, -, rfl⟩ | ⟨-, t, -, rfl⟩
    · exact opcode_setDefInstr v imm k
    · exact opcode_setTapInstr v imm t
  case getg | getp | defwr | defrd =>
    obtain ⟨_, -, rfl⟩ := Option.map_eq_some_iff.1 h
    rfl
  all_goals cases h; rfl

/-- The word packed from the fields a command was selected from, where those its format does not use are zero, is the
word of the command. -/
theorem encode_of_selectInstr {o : Opcode} {v : VoiceNo} {a : BitVec 8} {imm : Word} {i : Instr}
    (hv : o.format.usesV = false → v = 0) (ha : o.format.usesA = false → a = 0)
    (himm : o.format.usesImm = false → imm = 0) (h : selectInstr o v a imm = some i) :
    encode i = packCmd o.byte v a imm := by
  cases o
  case set =>
    simp only [selectInstr, Option.or_eq_some_iff, Option.map_eq_some_iff] at h
    rcases h with ⟨k, hk, rfl⟩ | ⟨-, t, ht, rfl⟩
    · rw [encode_setDefInstr, DefWord.sel_of_ofSel hk, packSet]
    · rw [encode_setTapInstr, Tap.sel_of_ofSel ht, packSet]
  case getg =>
    obtain ⟨g, hg, rfl⟩ := Option.map_eq_some_iff.1 h
    rw [encode, GReg.sel_of_ofSel hg, hv rfl, himm rfl]
  case getp =>
    obtain ⟨p, hp, rfl⟩ := Option.map_eq_some_iff.1 h
    rw [encode, VReg.sel_of_ofSel hp, himm rfl]
  case defwr =>
    obtain ⟨k, hk, rfl⟩ := Option.map_eq_some_iff.1 h
    rw [encode, DefWord.sel_of_ofSel hk, hv rfl]
  case defrd =>
    obtain ⟨k, hk, rfl⟩ := Option.map_eq_some_iff.1 h
    rw [encode, DefWord.sel_of_ofSel hk, hv rfl, himm rfl]
  case tinit | setsr | tlook => cases h; rw [encode, hv rfl, ha rfl]
  case tdown => cases h; rw [encode, hv rfl, ha rfl, himm rfl]
  case copy => cases h; rw [encode, himm rfl]
  case freset | sample | bqsamp => cases h; rw [encode, ha rfl]
  case finit | release | egen | getenvdef | setenvdef => cases h; rw [encode, ha rfl, himm rfl]

/-- Settles O2: the word is packed again from its fields, and step 3 is well-formedness of the command. -/
theorem acceptedWordIsItsEncoding : Obligations.AcceptedWordIsItsEncoding := by
  intro nv w i h
  obtain ⟨o, hop, hrsvd, hvoice, hsel⟩ := decode_eq_ok_iff.1 h
  obtain ⟨hz, hv, ha, himm⟩ := reservedViolated_eq_false_iff.1 hrsvd
  have henc : encode i = w := by
    rw [encode_of_selectInstr hv ha himm hsel, hop, packCmd_fields hz]
  rw [← henc, ← opcode_of_selectInstr hsel] at hvoice
  exact ⟨henc, voiceViolated_encode_eq_false_iff.1 hvoice⟩

end Sys2Proof
end

section
/-! The opcode table (30_encoding R95, R96): its must-be-zero bits are the decoder's reserved fields, its selectors are
the ones the decoder knows, and a word belongs to one of its rows. -/

namespace Sys2Proof

/-! ## A word under a mask -/

theorem eq_zero_iff_fields {w : Cmd} :
    w = 0 ↔ opField w = 0 ∧ zField w = 0 ∧ vField w = 0 ∧ aField w = 0 ∧ immField w = 0 := by
  constructor
  · rintro rfl
    decide
  · rintro ⟨hop, hz, hv, ha, himm⟩
    rw [← fields_append w, hop, hv, ha, hz, himm]
    rfl

theorem opField_and (w m : Cmd) : opField (w &&& m) = opField w &&& opField m := BitVec.extractLsb'_and
theorem vField_and (w m : Cmd) : vField (w &&& m) = vField w &&& vField m := BitVec.extractLsb'_and
theorem aField_and (w m : Cmd) : aField (w &&& m) = aField w &&& aField m := BitVec.extractLsb'_and
theorem zField_and (w m : Cmd) : zField (w &&& m) = zField w &&& zField m := BitVec.extractLsb'_and
theorem immField_and (w m : Cmd) : immField (w &&& m) = immField w &&& immField m := BitVec.extractLsb'_and

/-! ## Must-be-zero bits (R96, R99) -/

/-- All the bits of a field that a format does not use. -/
def unusedBits (n : Nat) (used : Bool) : BitVec n :=
  if used then 0#n else BitVec.allOnes n

theorem and_unusedBits_eq_zero_iff {n : Nat} {used : Bool} {x : BitVec n} :
    x &&& unusedBits n used = 0#n ↔ (used = false → x = 0#n) := by
  cases used <;> simp [unusedBits]

/-- The bits of a word that a format wants zero: `z`, and the fields it does not use. -/
def Format.mbz (f : Format) : Cmd :=
  0#8 ++ unusedBits 8 f.usesV ++ unusedBits 8 f.usesA ++ unusedBits 8 false ++ unusedBits 32 f.usesImm

theorem Format.mbz_fields (f : Format) :
    opField f.mbz = 0 ∧ vField f.mbz = unusedBits 8 f.usesV ∧ aField f.mbz = unusedBits 8 f.usesA ∧
      zField f.mbz = unusedBits 8 false ∧ immField f.mbz = unusedBits 32 f.usesImm := by
  cases f <;> decide

/-- The must-be-zero bits of a word are zero just when no reserved field is set. -/
theorem and_mbz_eq_zero_iff {f : Format} {w : Cmd} : w &&& f.mbz = 0 ↔ reservedViolated f w = false := by
  obtain ⟨hop, hv, ha, hz, himm⟩ := f.mbz_fields
  rw [eq_zero_iff_fields, reservedViolated_eq_false_iff, opField_and, vField_and, aField_and, zField_and, immField_and,
    hop, hv, ha, hz, himm]
  simp only [and_unusedBits_eq_zero_iff, BitVec.ofNat_eq_ofNat, BitVec.and_zero, true_and, forall_const]

theorem reservedViolated_eq_true_iff {f : Format} {w : Cmd} : reservedViolated f w = true ↔ w &&& f.mbz ≠ 0 := by
  rw [Ne, and_mbz_eq_zero_iff, Bool.not_eq_false]

/-! ## Rows (R96) -/

/-- The bits that select a row: `op`, and `a` too for the setters. -/
def Opcode.rowMask (o : Opcode) : Cmd :=
  if o = .set then 0xFF00FF0000000000 else 0xFF00000000000000

theorem Opcode.opField_rowMask (o : Opcode) : opField o.rowMask = BitVec.allOnes 8 := by
  unfold Opcode.rowMask
  split <;> decide

theorem row_mask (i : Instr) : i.row.mask = i.opcode.rowMask := by
  cases i <;> rfl

theorem opField_row_pattern (i : Instr) : opField i.row.pattern = i.opcode.byte := by
  cases i <;> exact opField_packCmd ..

theorem row_mbz (i : Instr) : i.row.mbz = i.opcode.format.mbz := by
  cases i <;>
    simp [Instr.row, opRow, setRow, Instr.opcode, Opcode.format, Format.mbz, unusedBits, Format.usesV, Format.usesA,
      Format.usesImm]

theorem opField_of_row {w : Cmd} {i : Instr} (h : w &&& i.row.mask = i.row.pattern) : opField w = i.opcode.byte := by
  rw [← opField_row_pattern, ← h, opField_and, row_mask, Opcode.opField_rowMask, BitVec.and_allOnes]

theorem Opcode.byte_injective {o p : Opcode} (h : o.byte = p.byte) : o = p :=
  Option.some.inj (by rw [← Opcode.ofByte_byte, h, Opcode.ofByte_byte])

/-- The opcode and the pattern of a row name the command of the row. -/
theorem selectInstr_row_pattern (i : Instr) :
    (selectInstr i.opcode 0 (aField i.row.pattern) 0).map Instr.ctorIdx = some i.ctorIdx := by
  cases i <;> simp only [Instr.row, opRow, setRow, aField_packCmd] <;> rfl

/-- Settles O4: a row a word belongs to has the word's opcode, so that two such rows have one mask, one pattern and one
command, and its must-be-zero bits are those of the opcode's format. -/
theorem wordBelongsToOneRow : Obligations.WordBelongsToOneRow := by
  constructor
  · intro w i j hi hj
    have hop : i.opcode = j.opcode := Opcode.byte_injective ((opField_of_row hi).symm.trans (opField_of_row hj))
    have hpattern : i.row.pattern = j.row.pattern := by rw [← hi, ← hj, row_mask, row_mask, hop]
    exact Option.some.inj
      (by rw [← selectInstr_row_pattern, hop, hpattern, selectInstr_row_pattern])
  · intro nv w i hrow hmbz
    rw [decode_of_opField (opField_of_row hrow), if_pos (reservedViolated_eq_true_iff.2 (row_mbz i ▸ hmbz))]

/-! ## Selectors (R65, R104) -/

/-- A code is not in the list of all codes just when it names nothing. -/
theorem ofCode_eq_none_iff {α : Type} {code : α → BitVec 8} {ofCode : BitVec 8 → Option α}
    (ofCode_code : ∀ k, ofCode (code k) = some k) (code_of_ofCode : ∀ {a k}, ofCode a = some k → code k = a)
    {all : List α} (hall : ∀ k, k ∈ all) {a : BitVec 8} : ofCode a = none ↔ a ∉ all.map code := by
  rw [List.mem_map]
  constructor
  · rintro h ⟨k, -, rfl⟩
    cases h.symm.trans (ofCode_code k)
  · intro h
    cases ha : ofCode a with
    | none => rfl
    | some k => exact absurd ⟨k, hall k, code_of_ofCode ha⟩ h

def DefWord.all : List DefWord :=
  [.startLvl, .atkRt, .atkLvl, .decRt, .susLvl, .relRt, .relLvl, .curve, .gain, .ftype]

def Tap.all : List Tap :=
  [.in0, .in1, .in2, .out1, .out2]

def VReg.all : List VReg :=
  DefWord.all.map VReg.defn ++ Tap.all.map VReg.tap ++
    [VReg.x1, VReg.x2, VReg.y1, VReg.y2, VReg.lastIdx, VReg.seg, VReg.lvl, VReg.pos, VReg.cnt, VReg.tgt, VReg.crv,
      VReg.coef]

def GReg.all : List GReg :=
  [.status, .tlen, .srate, .frqti, .cosoffs, .errCause, .errCmdLo, .errCmdHi, .nvoices, .lmaxr]

def Opcode.all : List Opcode :=
  [.tinit, .tdown, .setsr, .tlook, .getg, .finit, .freset, .release, .copy, .sample, .bqsamp, .egen, .set, .getp,
   .defwr, .defrd, .getenvdef, .setenvdef]

theorem DefWord.mem_all (k : DefWord) : k ∈ DefWord.all := by cases k <;> decide

theorem Tap.mem_all (t : Tap) : t ∈ Tap.all := by cases t <;> decide

theorem GReg.mem_all (g : GReg) : g ∈ GReg.all := by cases g <;> decide

theorem Opcode.mem_all (o : Opcode) : o ∈ Opcode.all := by cases o <;> decide

theorem VReg.mem_all (p : VReg) : p ∈ VReg.all := by
  cases p with
  | defn k => simp [VReg.all, k.mem_all]
  | tap t => simp [VReg.all, t.mem_all]
  | _ => decide

theorem DefWord.ofSel_eq_none_iff {a : BitVec 8} : DefWord.ofSel a = none ↔ a ∉ DefWord.all.map DefWord.sel :=
  ofCode_eq_none_iff DefWord.ofSel_sel DefWord.sel_of_ofSel DefWord.mem_all

theorem Tap.ofSel_eq_none_iff {a : BitVec 8} : Tap.ofSel a = none ↔ a ∉ Tap.all.map Tap.sel :=
  ofCode_eq_none_iff Tap.ofSel_sel Tap.sel_of_ofSel Tap.mem_all

theorem VReg.ofSel_eq_none_iff {a : BitVec 8} : VReg.ofSel a = none ↔ a ∉ VReg.all.map VReg.sel :=
  ofCode_eq_none_iff VReg.ofSel_sel VReg.sel_of_ofSel VReg.mem_all

theorem GReg.ofSel_eq_none_iff {a : BitVec 8} : GReg.ofSel a = none ↔ a ∉ GReg.all.map GReg.sel :=
  ofCode_eq_none_iff GReg.ofSel_sel GReg.sel_of_ofSel GReg.mem_all

theorem Opcode.ofByte_eq_none_iff {b : BitVec 8} : Opcode.ofByte b = none ↔ b ∉ Opcode.all.map Opcode.byte :=
  ofCode_eq_none_iff Opcode.ofByte_byte Opcode.byte_of_ofByte Opcode.mem_all

/-- The selectors defined for an opcode; none when its `a` is no selector. -/
def Opcode.selectors : Opcode → Option (List (BitVec 8))
  | .getg => some (GReg.all.map GReg.sel)
  | .set => some (DefWord.all.map DefWord.sel ++ Tap.all.map Tap.sel)
  | .getp => some (VReg.all.map VReg.sel)
  | .defwr | .defrd => some (DefWord.all.map DefWord.sel)
  | .tinit | .tdown | .setsr | .tlook | .finit | .freset | .release | .copy | .sample | .bqsamp | .egen | .getenvdef
  | .setenvdef => none

/-- Step 4: no command is selected just when `a` is a selector that is not defined. -/
theorem selectInstr_eq_none_iff {o : Opcode} {v : VoiceNo} {a : BitVec 8} {imm : Word} :
    selectInstr o v a imm = none ↔ ∃ l, o.selectors = some l ∧ a ∉ l := by
  cases o <;>
    simp only [selectInstr, Opcode.selectors, Option.map_eq_none_iff, Option.or_eq_none_iff, DefWord.ofSel_eq_none_iff,
      Tap.ofSel_eq_none_iff, VReg.ofSel_eq_none_iff, GReg.ofSel_eq_none_iff, List.mem_append, not_or, Option.some.injEq,
      exists_eq_left', reduceCtorEq, false_and, exists_const]

/-! ## The decoder from the table (R97) -/

/-- What the table says of an opcode: its byte, its must-be-zero bits, whether it uses `v`, and its selectors. -/
def Opcode.tableRow (o : Opcode) : BitVec 8 × Cmd × Bool × Option (List (BitVec 8)) :=
  (o.byte, o.format.mbz, o.format.usesV, o.selectors)

theorem illegalOp_of_unknown {nv : Nat} {w : Cmd} (h : ∀ o : Opcode, o.byte ≠ opField w) :
    decode nv w = .error .illegalOp := by
  have hnone : Opcode.ofByte (opField w) = none := by
    rw [Opcode.ofByte_eq_none_iff, List.mem_map]
    rintro ⟨o, -, ho⟩
    exact h o ho
  simp only [decode, hnone]

theorem voiceViolated_eq_true_iff {nv : Nat} {o : Opcode} {w : Cmd} :
    voiceViolated nv o w = true ↔
      (o.format.usesV = true ∧ nv ≤ (vField w).toNat) ∨ (o.byte = 0x13 ∧ nv ≤ (aField w).toNat) := by
  have hcopy : o = .copy ↔ o.byte = 0x13 := ⟨fun h => h ▸ rfl, fun h => Opcode.byte_injective h⟩
  simp only [voiceViolated, Bool.or_eq_true, Bool.and_eq_true, decide_eq_true_eq, hcopy]

/-- The checks in their order, for a word whose opcode is known, in the terms of the table. -/
theorem decode_by_tableRow {nv : Nat} {w : Cmd} {o : Opcode} (hop : o.byte = opField w) :
    if w &&& o.format.mbz ≠ 0 then decode nv w = .error .rsvdField
    else if (o.format.usesV = true ∧ nv ≤ (vField w).toNat) ∨ (opField w = 0x13 ∧ nv ≤ (aField w).toNat) then
      decode nv w = .error .badVoice
    else if ∃ l, o.selectors = some l ∧ aField w ∉ l then decode nv w = .error .badSelector
    else ∃ i, decode nv w = .ok i := by
  rw [decode_of_opField hop.symm, ← hop]
  split
  next hrsvd => rw [if_pos (reservedViolated_eq_true_iff.2 hrsvd)]
  next hrsvd =>
  rw [if_neg (mt reservedViolated_eq_true_iff.1 hrsvd)]
  split
  next hvoice => rw [if_pos (voiceViolated_eq_true_iff.2 hvoice)]
  next hvoice =>
  rw [if_neg (mt voiceViolated_eq_true_iff.1 hvoice)]
  split
  next hsel => rw [selectInstr_eq_none_iff.2 hsel, Option.elim_none]
  next hsel =>
  obtain ⟨i, hi⟩ := Option.ne_none_iff_exists'.1 (mt selectInstr_eq_none_iff.1 hsel)
  exact ⟨i, by rw [hi, Option.elim_some]⟩

/-- Settles O3: the table of the statement lists `Opcode.tableRow` of every opcode. -/
theorem decoderIsTotalAndOrdered : Obligations.DecoderIsTotalAndOrdered := by
  unfold Obligations.DecoderIsTotalAndOrdered
  intro definition coefficients progress rows nv w op v a
  have hrows : rows = Opcode.all.map Opcode.tableRow := by
    simp only [rows, definition, coefficients, progress]
    decide
  rw [hrows]
  constructor
  · intro hop
    exact illegalOp_of_unknown fun o => hop o.tableRow (List.mem_map_of_mem o.mem_all)
  · intro r hr hop
    obtain ⟨o, -, rfl⟩ := List.mem_map.1 hr
    exact decode_by_tableRow hop

end Sys2Proof
end

section
/-! The answer to a command word presented (10_state R33; 30_encoding R94, R97; 60_exceptions R253). -/

namespace Sys2Proof.Machine

theorem execWord_of_decode_error {s : State} {w : Cmd} {c : Status} (h : decode s.nv w = .error c) :
    execWord w s = .next (reject c w s) := by
  rw [execWord, h]

/-- Settles O9: moving the port does not change `NV`, so the word is rejected for the same cause, and `reject_eq` is the
rejection in full. -/
theorem stepRejectsAnUndecodableWord : Obligations.StepRejectsAnUndecodableWord := by
  intro s w rest c hp hpending hdecode
  have hdecode' : decode ({ s with pending := rest } : State).nv w = .error c := hdecode
  calc step s = execWord w { s with pending := rest } := step_of_input hp hpending
    _ = .next (reject c w { s with pending := rest }) := execWord_of_decode_error hdecode'
    _ = _ := by rw [reject_eq]

/-- A word presented is answered by one response, with data 0 if it is a rejection, and leaves the port, the parameters
and the number of contexts alone. -/
theorem execWord_answers_once {w : Cmd} {s t : State} (h : execWord w s = .next t) :
    t.pending = s.pending ∧ t.params = s.params ∧ t.nv = s.nv ∧
      ∃ r, t.responses = r :: s.responses ∧ (r.status ≠ .ok → r.data = 0) := by
  rcases execWord_cases h with ⟨c, w', -, rfl⟩ | ⟨i, d, e, -, he, rfl⟩
  · exact ⟨reject_pending .., reject_params .., reject_nv .., _, reject_responses .., fun _ => rfl⟩
  · have hresponses : (respond d e).responses = { status := .ok, data := d } :: s.responses := by
      rw [respond_responses, he.responses]
    exact ⟨he.pending, he.params, he.nv, _, hresponses, fun hne => absurd rfl hne⟩

/-- Settles O14: the step executes the word on the state whose port has moved past it. -/
theorem everyWordIsAnsweredOnce : Obligations.EveryWordIsAnsweredOnce := by
  intro s t w rest hpending hstep
  obtain ⟨hp, -⟩ := step_cases hstep
  exact execWord_answers_once (s := { s with pending := rest }) ((step_of_input hp hpending).symm.trans hstep)

end Sys2Proof.Machine
end

section
/-! The default sine table (40_table R120, R126): an entry's magnitude is that of the distance from its index to the
nearer zero crossing, and its sign is that of its half, so the symmetries of the table are those of the distance. -/

namespace Sys2Proof.Machine

/-! ## Signs of packed magnitudes -/

theorem fPack_eq_append (neg : Bool) {m : Nat} (h : m < 2 ^ 31) :
    fPack neg m = BitVec.ofBool neg ++ BitVec.ofNat 31 m := by
  apply BitVec.eq_of_toNat_eq
  rw [fPack_toNat h, BitVec.toNat_append, BitVec.toNat_ofNat, Nat.mod_eq_of_lt h, ← Nat.shiftLeft_add_eq_or_of_lt h]
  cases neg <;> rfl

theorem fPack_true_eq_xor {m : Nat} (h : m < 2 ^ 31) : fPack true m = fPack false m ^^^ 0x80000000 := by
  have hsign : (0x80000000 : F32) = 1#1 ++ 0#31 := rfl
  rw [fPack_eq_append _ h, fPack_eq_append _ h, hsign, BitVec.xor_append, BitVec.xor_zero]
  rfl

theorem fMag_pos {x : F32} (h0 : 0 < x.toNat) (h : x.toNat < 2 ^ 31) : 0 < fMag x := by
  unfold fMag
  rw [fExpField_eq, fFrac_eq]
  split
  · omega
  · exact Nat.mul_pos (by omega) (Nat.two_pow_pos _)

/-- Up to the infinity no pattern is a NaN, so all but the zero compare above zero. -/
theorem fgt_fPack_zero {m : Nat} (h0 : 0 < m) (h : m ≤ 0x7F800000) : fgt (fPack false m) 0 = true := by
  have hm : m < 2 ^ 31 := by omega
  have hbits : (fPack false m).toNat = m := by simp [fPack_toNat hm]
  have hmag : 0 < fMag (fPack false m) := fMag_pos (by omega) (by omega)
  have hnan : fIsNaN (fPack false m) = false := by
    simp only [fIsNaN, fExpField_fPack hm, fFrac_fPack hm, Bool.and_eq_false_iff, beq_eq_false_iff_ne,
      bne_eq_false_iff_eq]
    omega
  have hval : fVal (fPack false m) = fMag (fPack false m) := by simp [fVal, fSign_fPack hm]
  have hzero : fIsNaN 0 = false ∧ fVal 0 = 0 := by decide
  simp only [fgt, hnan, hzero, hval, Bool.not_false, Bool.and_true, Bool.true_and, decide_eq_true_eq]
  omega

/-! ## Magnitudes -/

theorem roundMag_pos {n : Nat} (h : 0 < n) : 0 < roundMag n 1 := by
  rw [roundMag_eq]
  rcases roundSig_binade (n := n) Nat.one_pos with ⟨hexp, -⟩ | ⟨hsig, -⟩
  · have hsig : roundSig n 1 = n := by
      rw [roundSig, hexp]
      simpa using roundNearestEven_mul n Nat.one_pos
    omega
  · omega

theorem sineMag_le (len j : Nat) : sineMag len j ≤ 0x7F800000 := by
  unfold sineMag
  split
  · omega
  split
  · omega
  · exact roundMag_le _ _

theorem fixSineSeries_le (t n k : Nat) : fixSineSeries t n k ≤ fixOne := by
  cases n with
  | zero => exact Nat.le_refl _
  | succ n => exact Nat.sub_le _ _

/-- The first term the series takes away is at most `t / 6`, and what it takes away of that only makes it less. -/
theorem fixSineSeries_ge_half {t : Nat} (ht : t ≤ 3 * fixOne) (n : Nat) : fixOne ≤ 2 * fixSineSeries t n 1 := by
  cases n with
  | zero => rw [fixSineSeries]; omega
  | succ n =>
    have hterm : t * fixSineSeries t n 2 / (fixOne * 6) ≤ fixOne / 2 :=
      calc t * fixSineSeries t n 2 / (fixOne * 6)
          ≤ 3 * fixOne * fixOne / (fixOne * 6) :=
            Nat.div_le_div_right (Nat.mul_le_mul ht (fixSineSeries_le t n 2))
        _ = fixOne / 2 := by decide
    have hseries : fixSineSeries t (n + 1) 1 = fixOne - t * fixSineSeries t n 2 / (fixOne * 6) := rfl
    omega

/-- In the first quadrant the angle is at most half of pi, and the least angle of a table is more than one unit. -/
theorem fixSine_pos {q j : Nat} (hj : 0 < j) (hle : j ≤ q) (hq : q ≤ 2 ^ 22) : 0 < fixSine (4 * q) j := by
  have hlo : 2 ≤ 2 * fixPi * j / (4 * q) := by
    rw [Nat.le_div_iff_mul_le (by omega), fixPi]
    omega
  have hhi : 2 * fixPi * j / (4 * q) ≤ fixPi / 2 :=
    calc 2 * fixPi * j / (4 * q)
        ≤ 2 * fixPi * q / (4 * q) := Nat.div_le_div_right (Nat.mul_le_mul_left _ hle)
      _ = 2 * fixPi / 4 := Nat.mul_div_mul_right _ _ (by omega)
      _ = fixPi / 2 := by decide
  unfold fixSine
  extract_lets x
  change 2 ≤ x at hlo
  change x ≤ fixPi / 2 at hhi
  have hsq : x * x / fixOne ≤ 3 * fixOne :=
    calc x * x / fixOne ≤ fixPi / 2 * (fixPi / 2) / fixOne := Nat.div_le_div_right (Nat.mul_le_mul hhi hhi)
      _ ≤ 3 * fixOne := by decide
  have hprod : fixOne ≤ x * fixSineSeries (x * x / fixOne) 22 1 :=
    Nat.le_trans (fixSineSeries_ge_half hsq 22) (Nat.mul_le_mul_right _ hlo)
  exact Nat.div_pos hprod (by decide)

/-- An entry strictly between two zero crossings does not round to zero. -/
theorem sineMag_pos {q j : Nat} (hj : 0 < j) (hle : j ≤ q) (hq : q ≤ 2 ^ 22) : 0 < sineMag (4 * q) j := by
  have hsine := fixSine_pos hj hle hq
  unfold sineMag
  split
  · omega
  split
  · decide
  · exact roundMag_pos (Nat.mul_pos hsine (Nat.two_pow_pos 21))

/-- The angle depends on the ratio of index and length alone. -/
theorem fixSine_double (len j : Nat) : fixSine (2 * len) (2 * j) = fixSine len j := by
  have hangle : 2 * fixPi * (2 * j) / (2 * len) = 2 * fixPi * j / len := by
    rw [Nat.mul_left_comm, Nat.mul_div_mul_left _ _ Nat.two_pos]
  simp only [fixSine, hangle]

/-- Doubling the length takes zero crossings and peaks to zero crossings and peaks. -/
theorem sineMag_double (q j : Nat) : sineMag (4 * (2 * q)) (2 * j) = sineMag (4 * q) j := by
  have hzero : 2 * j = 0 ↔ j = 0 := by omega
  have hpeak : 2 * j = 4 * (2 * q) / 4 ↔ j = 4 * q / 4 := by omega
  have hangle : fixSine (4 * (2 * q)) (2 * j) = fixSine (4 * q) j := by
    rw [Nat.mul_left_comm, fixSine_double]
  simp only [sineMag, hzero, hpeak, hangle]

theorem sineMag_zero (len : Nat) : sineMag len 0 = 0 := rfl

theorem sineMag_quarter {q : Nat} (hq : 0 < q) : sineMag (4 * q) q = 0x3F800000 := by
  rw [sineMag, if_neg (by omega), if_pos (by omega)]

/-! ## Entries -/

/-- The distance of the index to the nearer zero crossing gives the magnitude, and the half of the table the sign. -/
theorem roundedSine_eq {q : Nat} (hq : 0 < q) (i : Nat) :
    roundedSine (4 * q) i =
      fPack (decide (2 * q ≤ i) && decide (i % (2 * q) ≠ 0))
        (sineMag (4 * q) (min (i % (2 * q)) (2 * q - i % (2 * q)))) := by
  have hlt : i % (2 * q) < 2 * q := Nat.mod_lt i (by omega)
  have hhalf : 4 * q / 2 = 2 * q := by omega
  have hquarter : 4 * q / 4 = q := by omega
  have hdist : (if i % (2 * q) ≤ q then i % (2 * q) else 2 * q - i % (2 * q)) =
      min (i % (2 * q)) (2 * q - i % (2 * q)) := by
    split <;> omega
  have hsign : min (i % (2 * q)) (2 * q - i % (2 * q)) ≠ 0 ↔ i % (2 * q) ≠ 0 := by omega
  simp only [roundedSine, hhalf, hquarter, hdist, hsign]

/-- The first half, the zero crossing at its end included. -/
theorem roundedSine_firstHalf {q i : Nat} (hq : 0 < q) (hi : i ≤ 2 * q) :
    roundedSine (4 * q) i = fPack false (sineMag (4 * q) (min i (2 * q - i))) := by
  rw [roundedSine_eq hq]
  rcases Nat.lt_or_eq_of_le hi with hlt | rfl
  · rw [Nat.mod_eq_of_lt hlt, decide_eq_false (by omega : ¬2 * q ≤ i), Bool.false_and]
  · simp

theorem roundedSine_secondHalf {q i : Nat} (hi : i < 2 * q) :
    roundedSine (4 * q) (2 * q + i) = fPack (decide (i ≠ 0)) (sineMag (4 * q) (min i (2 * q - i))) := by
  rw [roundedSine_eq (by omega), Nat.add_mod_left, Nat.mod_eq_of_lt hi, decide_eq_true (Nat.le_add_right ..),
    Bool.true_and]

theorem roundedSine_zero {q : Nat} (hq : 0 < q) : roundedSine (4 * q) 0 = 0 := by
  rw [roundedSine_firstHalf hq (Nat.zero_le _), Nat.zero_min, sineMag_zero]
  rfl

theorem roundedSine_peak {q : Nat} (hq : 0 < q) : roundedSine (4 * q) q = 0x3F800000 := by
  have hdist : min q (2 * q - q) = q := by omega
  rw [roundedSine_firstHalf hq (by omega), hdist, sineMag_quarter hq]
  rfl

/-- Strictly between the zero crossings the first half is above zero. -/
theorem roundedSine_pos {q i : Nat} (hq : q ≤ 2 ^ 22) (hi : 0 < i) (hlt : i < 2 * q) :
    fgt (roundedSine (4 * q) i) 0 = true := by
  rw [roundedSine_firstHalf (by omega) (Nat.le_of_lt hlt)]
  exact fgt_fPack_zero (sineMag_pos (by omega) (by omega) hq) (sineMag_le ..)

/-- The first half reads the same from both ends. -/
theorem roundedSine_mirror {q i : Nat} (hq : 0 < q) (hi : i ≤ 2 * q) :
    roundedSine (4 * q) (2 * q - i) = roundedSine (4 * q) i := by
  rw [roundedSine_firstHalf hq hi, roundedSine_firstHalf hq (Nat.sub_le ..), Nat.sub_sub_self hi, Nat.min_comm]

/-- Half a table later the sign is inverted. -/
theorem roundedSine_opposite {q i : Nat} (hi : 0 < i) (hlt : i < 2 * q) :
    roundedSine (4 * q) (2 * q + i) = roundedSine (4 * q) i ^^^ 0x80000000 := by
  have hbits := Nat.lt_of_le_of_lt (sineMag_le (4 * q) (min i (2 * q - i))) (by decide : _ < 2 ^ 31)
  rw [roundedSine_secondHalf hlt, roundedSine_firstHalf (by omega) (Nat.le_of_lt hlt), decide_eq_true (by omega),
    fPack_true_eq_xor hbits]

/-- Every entry stands at the doubled index in the table of doubled length. -/
theorem roundedSine_double {q : Nat} (hq : 0 < q) (i : Nat) :
    roundedSine (4 * (2 * q)) (2 * i) = roundedSine (4 * q) i := by
  have hmod : 2 * i % (2 * (2 * q)) = 2 * (i % (2 * q)) := Nat.mul_mod_mul_left ..
  have hdist : min (2 * (i % (2 * q))) (2 * (2 * q) - 2 * (i % (2 * q))) =
      2 * min (i % (2 * q)) (2 * q - i % (2 * q)) := by omega
  have hhalf : 2 * (2 * q) ≤ 2 * i ↔ 2 * q ≤ i := by omega
  have hzero : 2 * (i % (2 * q)) ≠ 0 ↔ i % (2 * q) ≠ 0 := by omega
  rw [roundedSine_eq (by omega), roundedSine_eq hq, hmod, hdist, sineMag_double]
  simp only [hhalf, hzero]

/-- The cosine view, a quarter of the table ahead, is the sine read backwards from the peak (R126). -/
theorem roundedSine_cosine {q i : Nat} (hi : i < q) :
    roundedSine (4 * q) (i + q) = roundedSine (4 * q) (q - i) := by
  have hmirror : 2 * q - (i + q) = q - i := by omega
  rw [← hmirror, roundedSine_mirror (by omega) (by omega)]

theorem two_pow_eq_four_mul {k : Nat} (h : 2 ≤ k) : 2 ^ k = 4 * 2 ^ (k - 2) := by
  obtain ⟨j, rfl⟩ := Nat.exists_eq_add_of_le h
  simp [Nat.pow_add]

/-- Settles O59: a legal length is four times a quarter that is a power of two, and each clause is a fact about the
distance to the nearer zero crossing. -/
theorem sineTableSymmetries : Obligations.SineTableSymmetries := by
  intro k hk2 hk24 wt quarter
  have hq : 0 < quarter := Nat.two_pow_pos _
  have hqle : quarter ≤ 2 ^ 22 := Nat.pow_le_pow_right (by decide) (by omega)
  have hlen : 2 ^ k = 4 * quarter := two_pow_eq_four_mul hk2
  have hdouble : 2 ^ (k + 1) = 4 * (2 * quarter) := by omega
  have hwt : ∀ i, wt i = roundedSine (4 * quarter) i := fun i => by rw [← hlen]; rfl
  simp only [hwt, hdouble, sinRom]
  refine ⟨roundedSine_zero hq, roundedSine_peak hq, ?_, ?_, fun i => roundedSine_pos hqle,
    fun i => roundedSine_mirror hq, fun i => roundedSine_opposite, fun i _ => roundedSine_double hq i,
    fun i => roundedSine_cosine⟩
  · calc roundedSine (4 * quarter) (2 * quarter)
        = roundedSine (4 * quarter) 0 := roundedSine_mirror hq (Nat.zero_le _)
      _ = 0 := roundedSine_zero hq
  · have hthree : 3 * quarter = 2 * quarter + quarter := by omega
    rw [hthree, roundedSine_opposite hq (by omega), roundedSine_peak hq]
    rfl

end Sys2Proof.Machine
end

section
/-! The table and global commands (40_table R121 to R125): what each writes and answers when it is carried out. -/

namespace Sys2Proof.Machine

/-! ## Words and legal values -/

/-- The tests of R121 and R122 on a rate, one by one. -/
theorem legalRate_of {x : F32} (hfin : fIsFinite x = true) (hpos : fgt x 0 = true) : legalRate x = true :=
  Bool.and_eq_true_iff.2 ⟨hfin, hpos⟩

theorem toInt_eq_toNat_of_nonneg {w : Word} (h : 0 ≤ w.toInt) : w.toInt = w.toNat := by
  rw [BitVec.toInt_eq_toNat_cond] at h ⊢
  split at h <;> omega

/-- A table length that the parameters allow is its own word, read with and without sign. -/
theorem length_word {k : Nat} (hk : k ≤ 24) :
    zext32 (BitVec.ofNat 32 (2 ^ k)) = 2 ^ k ∧ sext32 (BitVec.ofNat 32 (2 ^ k)) = (2 ^ k : Nat) := by
  have hlt : 2 ^ k ≤ 2 ^ 24 := Nat.pow_le_pow_right (by decide) hk
  have hnat : (BitVec.ofNat 32 (2 ^ k)).toNat = 2 ^ k := Nat.mod_eq_of_lt (by omega)
  refine ⟨hnat, ?_⟩
  rw [sext32, BitVec.toInt_eq_toNat_of_lt (by omega), hnat]

theorem legalLength_two_pow {m k : Nat} (h2 : 2 ≤ k) (hm : k ≤ m) : legalLength (2 ^ m) (2 ^ k : Nat) = true := by
  have h4 : 2 ^ 2 ≤ 2 ^ k := Nat.pow_le_pow_right (by decide) h2
  have hle : 2 ^ k ≤ 2 ^ m := Nat.pow_le_pow_right (by decide) hm
  exact legalLength_iff.2 ⟨by omega, by omega, k, rfl⟩

/-! ## The commands carried out -/

theorem execSetsr_accepts {s : State} {rate : F32} (hdown : s.tblRdy = false) (hrate : legalRate rate = true) :
    execSetsr rate s = done 0 { s with srate := rate } := by
  simp [execSetsr, hdown, hrate]

theorem execTinit_accepts {s : State} {len : Word} (hdown : s.tblRdy = false)
    (hlen : legalLength s.lmax (sext32 len) = true) (hrate : legalRate s.srate = true) :
    execTinit len s = done 0 (buildTable len s) := by
  simp [execTinit, hdown, hlen, hrate]

theorem execTlook_accepts {s : State} {index : Word} {e : F32} (hup : s.tblRdy = true) (hindex : 0 ≤ sext32 index)
    (he : s.wt (zext32 index) = some e) : execTlook index s = done e s := by
  rw [execTlook, if_neg (by simp [hup]), if_neg (Int.not_lt.2 hindex), he]

/-- Settles O26. -/
theorem setsrStoresTheRate : Obligations.SetsrStoresTheRate :=
  fun _ _ hdown hfin hpos => execSetsr_accepts hdown (legalRate_of hfin hpos)

/-- Settles O28: the index lies in the table, and both words are read alike with and without sign. -/
theorem tlookReadsAnEntry : Obligations.TlookReadsAnEntry := by
  intro s index hup hindex hlt
  have hi : index.toInt = index.toNat := toInt_eq_toNat_of_nonneg hindex
  have hlen : s.tlen.toInt = s.tlen.toNat := toInt_eq_toNat_of_nonneg (by omega)
  have hentry : s.wt (zext32 index) = some (sinRom s.params.sinRom s.tlen.toNat index.toNat) := by
    refine State.wt_eq_some.2 ⟨hup, ?_, ?_⟩
    · rw [zext32, sext32, ← hi]
      exact hlt
    · rw [zext32, sext32, hlen, Int.toNat_natCast]
  exact execTlook_accepts hup hindex hentry

/-- Settles O27: the length is legal, and its half and its quarter are the powers of two below it. -/
theorem tinitBuildsTheTable : Obligations.TinitBuildsTheTable := by
  intro s k hdown hmax hk2 hk hfin hpos t
  obtain ⟨hnat, hint⟩ := length_word (Nat.le_trans hk hmax)
  have hlen : legalLength s.lmax (sext32 (BitVec.ofNat 32 (2 ^ k))) = true := by
    rw [hint]
    exact legalLength_two_pow hk2 hk
  have hpow4 : 2 ^ k = 4 * 2 ^ (k - 2) := two_pow_eq_four_mul hk2
  have hpow2 : 2 ^ (k - 1) * 2 = 2 ^ k := Nat.two_pow_pred_mul_two (by omega)
  have hquarter : zext32 (BitVec.ofNat 32 (2 ^ k)) / 4 = 2 ^ (k - 2) := by omega
  have hhalf : zext32 (BitVec.ofNat 32 (2 ^ k)) / 2 = 2 ^ (k - 1) := by omega
  constructor
  · calc execTinit (BitVec.ofNat 32 (2 ^ k)) s
        = done 0 (buildTable (BitVec.ofNat 32 (2 ^ k)) s) := execTinit_accepts hdown hlen (legalRate_of hfin hpos)
      _ = .next t := by
        rw [buildTable, hquarter, hhalf, Int.natCast_pow]
        rfl
  · intro i hi
    refine State.wt_eq_some.2 ⟨rfl, ?_, ?_⟩
    · show (i : Int) < sext32 (BitVec.ofNat 32 (2 ^ k))
      omega
    · show _ = sinRom s.params.sinRom (sext32 (BitVec.ofNat 32 (2 ^ k))).toNat i
      rw [hint, Int.toNat_natCast]

/-- Settles O29: the contexts that are left are copies of `Voice.reset`. -/
theorem tdownResetsAllButTheCapture : Obligations.TdownResetsAllButTheCapture :=
  fun _ => rfl

/-! ## `GETG` -/

theorem statusWord_eq (s : State) : s.statusWord = BitVec.ofNat 32 (s.err.toNat * 2 + s.tblRdy.toNat) := by
  rw [State.statusWord]
  cases s.err <;> cases s.tblRdy <;> rfl

theorem cmdLo_eq (w : Cmd) : w.extractLsb' 0 32 = BitVec.ofNat 32 (w.toNat % 2 ^ 32) := by
  apply BitVec.eq_of_toNat_eq
  simp [BitVec.extractLsb'_toNat]

theorem cmdHi_eq (w : Cmd) : w.extractLsb' 32 32 = BitVec.ofNat 32 (w.toNat / 2 ^ 32) := by
  apply BitVec.eq_of_toNat_eq
  simp [BitVec.extractLsb'_toNat, Nat.shiftRight_eq_div_pow]

/-- Settles O30: each of the ten words is that of its command, and the registers that are put together when they are
read have their values from the lemmas above. -/
theorem getgReadsTheGlobals : Obligations.GetgReadsTheGlobals := by
  refine ⟨fun nv p hp => decode_of_encode_eq ?_ rfl, fun s g => ?_⟩
  · revert p
    decide
  · cases g with
    | status => exact congrArg (done · s) (statusWord_eq s)
    | errCause => exact congrArg (done · s) (BitVec.ofNat_toNat 32 s.errCause.code).symm
    | errCmdLo => exact congrArg (done · s) (cmdLo_eq s.errCmd)
    | errCmdHi => exact congrArg (done · s) (cmdHi_eq s.errCmd)
    | _ => rfl

end Sys2Proof.Machine
end

section
/-! The envelope under `EGEN` and `RELEASE` (41_envelope R142 to R152): one step of it by cases, what each of the two
commands answers, a whole ramp by induction on the steps left, and the statements put together from these. -/

namespace Sys2Proof.Machine

/-! ## One step of a ramp -/

theorem rampLevel_last {x : Voice} (h : x.pos + 1 = x.cnt) : rampLevel x = x.tgt :=
  if_pos (cnt_sub_pos_eq_one.2 h)

theorem rampLevel_lin {x : Voice} (h : x.pos + 1 ≠ x.cnt) (hcrv : x.crv = .lin) :
    rampLevel x = fadd x.lvl (fdiv (fsub x.tgt x.lvl) (i2f (x.cnt - x.pos).toNat)) := by
  rw [rampLevel, if_neg (mt cnt_sub_pos_eq_one.1 h), hcrv]
  rfl

theorem rampLevel_exp {x : Voice} (h : x.pos + 1 ≠ x.cnt) (hcrv : x.crv = .exp) :
    rampLevel x = fadd x.lvl (fmul x.coef (fsub x.tgt x.lvl)) := by
  rw [rampLevel, if_neg (mt cnt_sub_pos_eq_one.1 h), hcrv]

theorem envAdvance_within {x : Voice} (hramp : x.seg.isRamp = true) (h : x.pos + 1 ≠ x.cnt) (e : F32) :
    envAdvance e x = { x with lvl := rampLevel x, pos := x.pos + 1 } :=
  (envAdvance_ramp hramp).trans (rampStep_of_ne h)

/-- The context that a completed ramp leaves: on the target's own bits, the next segment entered (R149). -/
def rampEnd (e : F32) (x : Voice) : Voice := enterSeg e x.seg.next { x with lvl := x.tgt, pos := x.cnt }

theorem envAdvance_last {x : Voice} (hramp : x.seg.isRamp = true) (h : x.pos + 1 = x.cnt) (e : F32) :
    envAdvance e x = rampEnd e x := by
  rw [envAdvance_ramp hramp, rampStep_of_eq h, rampLevel_last h, h, rampEnd]

theorem rampEnd_attack {x : Voice} (h : x.seg = .attack) (e : F32) :
    rampEnd e x = enterDecay e { x with lvl := x.tgt, pos := x.cnt } := by
  rw [rampEnd, h]
  rfl

theorem rampEnd_attack_ramp {x : Voice} (h : x.seg = .attack) (hdec : x.decRt ≠ 0) (e : F32) :
    rampEnd e x = enterRamp e .decay x.decRt x.susLvl { x with lvl := x.tgt } :=
  (rampEnd_attack h e).trans (enterDecay_ramp hdec)

/-- A decay of rate zero is skipped, and the level jumps to the sustain level (R143). -/
theorem rampEnd_attack_skip {x : Voice} (h : x.seg = .attack) (hdec : x.decRt = 0) (e : F32) :
    rampEnd e x = enterHold .sustain { x with lvl := x.susLvl } :=
  (rampEnd_attack h e).trans (enterDecay_zero hdec)

theorem rampEnd_decay {x : Voice} (h : x.seg = .decay) (e : F32) :
    rampEnd e x = enterHold .sustain { x with lvl := x.tgt } := by
  rw [rampEnd, h]
  rfl

theorem rampEnd_release {x : Voice} (h : x.seg = .release) (e : F32) :
    rampEnd e x = enterHold .done { x with lvl := x.tgt } := by
  rw [rampEnd, h]
  rfl

/-- Entering a ramp register by register, the coefficient of an exponential one being `min(1.0, EXPK / n)` (R143,
R147). -/
theorem enterRamp_eq (e : F32) (g : Seg) (n : Word) (t : F32) (x : Voice) :
    enterRamp e g n t x =
      { x with
        seg := g, pos := 0, cnt := n, tgt := t, crv := x.curve
        coef := match x.curve with
          | .lin => 0
          | .exp =>
            let c := fdiv e (i2f n.toNat)
            if fgt c 0x3F800000 then 0x3F800000 else c } := by
  unfold enterRamp
  cases x.curve <;> rfl

/-! ## `IDLE` is never entered -/

theorem enterRelease_seg_ne_idle (e : F32) (x : Voice) : (enterRelease e x).seg ≠ .idle := by
  unfold enterRelease
  split <;> simp

theorem enterDecay_seg_ne_idle (e : F32) (x : Voice) : (enterDecay e x).seg ≠ .idle := by
  unfold enterDecay
  split <;> simp

theorem enterAttack_seg_ne_idle (e : F32) (x : Voice) : (enterAttack e x).seg ≠ .idle := by
  unfold enterAttack
  split
  · exact enterDecay_seg_ne_idle e _
  · simp

theorem enterSeg_seg_ne_idle {g : Seg} (h : g ≠ .idle) (e : F32) (x : Voice) : (enterSeg e g x).seg ≠ .idle := by
  cases g with
  | idle => exact absurd rfl h
  | attack => exact enterAttack_seg_ne_idle e x
  | decay => exact enterDecay_seg_ne_idle e x
  | release => exact enterRelease_seg_ne_idle e x
  | sustain | done => exact nofun

theorem Seg.ne_idle_of_isRamp {g : Seg} (h : g.isRamp = true) : g ≠ .idle :=
  fun hidle => by rw [hidle] at h; cases h

theorem envAdvance_seg_ne_idle {x : Voice} (h : x.seg ≠ .idle) (e : F32) : (envAdvance e x).seg ≠ .idle := by
  cases hramp : x.seg.isRamp with
  | false => rwa [envAdvance_hold hramp]
  | true =>
    by_cases hlast : x.pos + 1 = x.cnt
    · rw [envAdvance_last hramp hlast]
      exact enterSeg_seg_ne_idle (Seg.next_ne_idle hramp) e _
    · rw [envAdvance_within hramp hlast]
      exact h

/-! ## The commands carried out -/

section
variable {s : State} {v : VoiceNo} {x : Voice}

theorem exec_egen (hv : s.voice? v = some x) (h : x.seg ≠ .idle) :
    exec (.egen v) s = done x.lvl (s.setVoice v (envAdvance s.params.expk x)) :=
  calc exec (.egen v) s
      = if x.seg = .idle then rejected .notInit (.egen v) s
        else done x.lvl (s.setVoice v (envAdvance s.params.expk x)) := withVoice_some hv
    _ = done x.lvl (s.setVoice v (envAdvance s.params.expk x)) := if_neg h

theorem exec_release (hv : s.voice? v = some x) (h : x.seg ≠ .idle) :
    exec (.release v) s = done 0 (s.setVoice v (releaseVoice s.params.expk x)) :=
  calc exec (.release v) s
      = if x.seg = .idle then rejected .notInit (.release v) s
        else done 0 (s.setVoice v (releaseVoice s.params.expk x)) := withVoice_some hv
    _ = done 0 (s.setVoice v (releaseVoice s.params.expk x)) := if_neg h

theorem execAll_cons {i : Instr} {t : State} (h : exec i s = .next t) (is : List Instr) :
    execAll (i :: is) s = execAll is t := by
  rw [execAll, h]

/-- `EGEN` repeated `n` times leaves the context that `n` steps of the envelope leave, and answers. -/
theorem execAll_egen (hv : s.voice? v = some x) (h : x.seg ≠ .idle) (n : Nat) :
    ∃ r, execAll (List.replicate n (.egen v)) s =
      some { s.setVoice v (envSkip s.params.expk n x) with responses := r } := by
  induction n generalizing s x with
  | zero => exact ⟨s.responses, congrArg some (State.setVoice_same hv).symm⟩
  | succ n ih =>
    have hv' : (s.setVoice v (envAdvance s.params.expk x)).voice? v = some (envAdvance s.params.expk x) :=
      State.voice?_setVoice (State.lt_nv_of_voice? hv) _
    obtain ⟨r, hr⟩ := ih (s := respond x.lvl (s.setVoice v (envAdvance s.params.expk x))) hv'
      (envAdvance_seg_ne_idle h _)
    refine ⟨r, ?_⟩
    rw [List.replicate_succ, execAll_cons (exec_egen hv h), hr, envSkip_succ,
      ← State.setVoice_setVoice s v (envAdvance s.params.expk x) (envSkip _ _ _)]
    rfl

end

/-! ## A whole ramp -/

/-- Before a ramp completes, its steps move the level and count up the position; nothing else. -/
theorem envSkip_within {x : Voice} (hramp : x.seg.isRamp = true) (e : F32) {n : Nat}
    (h : x.pos.toNat + n < x.cnt.toNat) :
    ∃ l p, p.toNat = x.pos.toNat + n ∧ envSkip e n x = { x with lvl := l, pos := p } := by
  induction n generalizing x with
  | zero => exact ⟨x.lvl, x.pos, rfl, rfl⟩
  | succ n ih =>
    have hmore : x.pos + 1 ≠ x.cnt := by bv_omega
    have hpos : (x.pos + 1).toNat = x.pos.toNat + 1 := by bv_omega
    obtain ⟨l, p, hp, hskip⟩ := ih (x := { x with lvl := rampLevel x, pos := x.pos + 1 }) hramp
      (show (x.pos + 1).toNat + n < x.cnt.toNat by omega)
    have hp' : p.toNat = (x.pos + 1).toNat + n := hp
    exact ⟨l, p, by omega, by rw [envSkip_succ, envAdvance_within hramp hmore, hskip]⟩

/-- As many steps as remain complete the ramp, wherever its level was. -/
theorem envSkip_completes {x : Voice} (hramp : x.seg.isRamp = true) (e : F32) {n : Nat}
    (h : x.pos.toNat + (n + 1) = x.cnt.toNat) :
    envSkip e (n + 1) x = rampEnd e x := by
  induction n generalizing x with
  | zero =>
    have hlast : x.pos + 1 = x.cnt := by bv_omega
    rw [envSkip_succ, envSkip_zero, envAdvance_last hramp hlast]
  | succ n ih =>
    have hmore : x.pos + 1 ≠ x.cnt := by bv_omega
    have hpos : (x.pos + 1).toNat = x.pos.toNat + 1 := by bv_omega
    rw [envSkip_succ, envAdvance_within hramp hmore]
    exact ih hramp (show (x.pos + 1).toNat + (n + 1) = x.cnt.toNat by omega)

/-- Settles O41: the commands run the envelope by `execAll_egen`; fewer steps than `CNT` stay within the ramp, and
`CNT` steps complete it. -/
theorem rampLastsItsCount : Obligations.RampLastsItsCount := by
  intro s v x hv hseg hpos hcnt
  have hramp : x.seg.isRamp = true := Seg.isRamp_eq_true.2 hseg
  have hrun := execAll_egen hv (Seg.ne_idle_of_isRamp hramp)
  have hstart : x.pos.toNat = 0 := by rw [hpos]; rfl
  have hlt : v.toNat < s.nv := State.lt_nv_of_voice? hv
  constructor
  · intro k hk
    obtain ⟨r, hr⟩ := hrun k
    obtain ⟨l, p, hp, hskip⟩ := envSkip_within hramp s.params.expk (n := k) (by omega)
    rw [hskip] at hr
    exact ⟨_, _, hr, State.voice?_setVoice hlt _, rfl, show p.toNat = k by omega, rfl, rfl, rfl, rfl⟩
  · obtain ⟨n, hn⟩ : ∃ n, x.cnt.toNat = n + 1 :=
      Nat.exists_eq_succ_of_ne_zero fun h => hcnt (BitVec.eq_of_toNat_eq h)
    obtain ⟨r, hr⟩ := hrun x.cnt.toNat
    rw [hn, envSkip_completes hramp s.params.expk (by omega), ← hn] at hr
    refine ⟨_, _, hr, State.voice?_setVoice hlt _, fun hg => ?_, fun hg => ?_, fun hg hdec => ?_, fun hg hdec => ?_⟩
    · rw [rampEnd_release hg]
      exact ⟨rfl, rfl⟩
    · rw [rampEnd_decay hg]
      exact ⟨rfl, rfl⟩
    · rw [rampEnd_attack_ramp hg hdec]
      exact ⟨rfl, rfl, rfl, rfl⟩
    · rw [rampEnd_attack_skip hg hdec]
      exact ⟨rfl, rfl⟩

/-! ## The release signal -/

/-- The signal enters `RELEASE` or is ignored (R151). -/
theorem releaseVoice_cases (e : F32) (x : Voice) : releaseVoice e x = enterRelease e x ∨ releaseVoice e x = x := by
  cases h : x.seg with
  | attack | decay | sustain => exact .inl (releaseVoice_enters (by simp [h]))
  | idle | release | done => exact .inr (releaseVoice_stays (by simp [h]))

theorem releaseVoice_lvl {x : Voice} (h : x.relRt ≠ 0) (e : F32) : (releaseVoice e x).lvl = x.lvl := by
  rcases releaseVoice_cases e x with hr | hr <;> rw [hr]
  rw [enterRelease_ramp h, enterRamp_lvl]

theorem releaseVoice_seg_ne_idle {x : Voice} (h : x.seg ≠ .idle) (e : F32) : (releaseVoice e x).seg ≠ .idle := by
  rcases releaseVoice_cases e x with hr | hr <;> rw [hr]
  · exact enterRelease_seg_ne_idle e x
  · exact h

/-- Settles O36: the step answers the level it finds, and the signal has not moved it. -/
theorem releaseIsContinuous : Obligations.ReleaseIsContinuous := by
  intro s v x hv hseg hrate
  have hrate' : x.relRt ≠ 0 := fun h => by rw [h] at hrate; exact absurd hrate (by decide)
  have hlvl : (releaseVoice s.params.expk x).lvl = x.lvl := releaseVoice_lvl hrate' _
  have hv' : (respond 0 (s.setVoice v (releaseVoice s.params.expk x))).voice? v = some (releaseVoice s.params.expk x) :=
    State.voice?_setVoice (State.lt_nv_of_voice? hv) _
  refine ⟨_, _, _, exec_release hv hseg, hv', hlvl, exec_egen hv' (releaseVoice_seg_ne_idle hseg _), ?_⟩
  rw [hlvl]
  rfl

/-- Settles O40: after the last step the next segment is entered, a decay by its rate. -/
theorem egenCompletesTheRamp : Obligations.EgenCompletesTheRamp := by
  intro s v x hv hrem after hold
  have hlast : x.pos + 1 = x.cnt := cnt_sub_pos_eq_one.1 hrem
  have hexec (hramp : x.seg.isRamp = true) :
      exec (.egen v) s = after (rampEnd s.params.expk x) := by
    rw [exec_egen hv (Seg.ne_idle_of_isRamp hramp), envAdvance_last hramp hlast]
    rfl
  refine ⟨fun hg hdec => ?_, fun hg hdec => ?_, fun hg => ?_, fun hg => ?_⟩ <;> rw [hexec (by rw [hg]; rfl)]
  · exact congrArg after ((rampEnd_attack_ramp hg hdec _).trans (enterRamp_eq ..))
  · exact congrArg after (rampEnd_attack_skip hg hdec _)
  · exact congrArg after (rampEnd_decay hg _)
  · exact congrArg after (rampEnd_release hg _)

/-- Settles O35: the signal enters `RELEASE` by its rate, and a context that stays is stored as it was. -/
theorem releaseEntersTheReleaseSegment : Obligations.ReleaseEntersTheReleaseSegment := by
  intro s v x hv after
  have hexec (hseg : x.seg = .attack ∨ x.seg = .decay ∨ x.seg = .sustain) :
      exec (.release v) s = after (enterRelease s.params.expk x) := by
    rw [exec_release hv (fun hidle => by simp [hidle] at hseg), releaseVoice_enters hseg]
    rfl
  refine ⟨fun hseg hrate => ?_, fun hseg hrate => ?_, fun hseg => ?_⟩
  · exact (hexec hseg).trans (congrArg after ((enterRelease_ramp hrate).trans (enterRamp_eq ..)))
  · exact (hexec hseg).trans (congrArg after (enterRelease_zero hrate))
  · rw [exec_release hv (fun hidle => by simp [hidle] at hseg), releaseVoice_stays (.inr hseg),
      State.setVoice_same hv]
    rfl

/-- Settles O39: the step of a hold state is none, and that of a ramp takes the level of its curve. -/
theorem egenStepsTheEnvelope : Obligations.EgenStepsTheEnvelope := by
  intro s v x hv after rem
  have hramp (hseg : x.seg = .attack ∨ x.seg = .decay ∨ x.seg = .release) (hrem : rem ≠ 1) :
      exec (.egen v) s = after { x with lvl := rampLevel x, pos := x.pos + 1 } := by
    have hisRamp : x.seg.isRamp = true := Seg.isRamp_eq_true.2 hseg
    rw [exec_egen hv (Seg.ne_idle_of_isRamp hisRamp), envAdvance_within hisRamp (mt cnt_sub_pos_eq_one.2 hrem)]
    rfl
  refine ⟨fun hseg => ?_, fun hseg hrem hcrv => ?_, fun hseg hrem hcrv => ?_⟩
  · rw [exec_egen hv (fun hidle => by simp [hidle] at hseg),
      envAdvance_hold (Seg.isRamp_eq_false.2 (.inr hseg))]
    rfl
  · rw [hramp hseg hrem, rampLevel_lin (mt cnt_sub_pos_eq_one.2 hrem) hcrv]
  · rw [hramp hseg hrem, rampLevel_exp (mt cnt_sub_pos_eq_one.2 hrem) hcrv]

end Sys2Proof.Machine
end

section
/-! The biquad run by `BQSAMP` (42_biquad R171 to R174): what the command answers and stores, that its output is a NaN
only as the canonical one, and that a NaN in `Y1` is fed back for good. -/

namespace Sys2Proof.Machine

theorem exec_bqsamp {s : State} {v : VoiceNo} {x : Voice} (hv : s.voice? v = some x) (input : F32) :
    exec (.bqsamp v input) s = done (biquadOut x input) (s.setVoice v (biquad x input).2) :=
  withVoice_some hv

theorem biquadOut_eq_fNaN_of_isNaN {x : Voice} {input : F32} (h : fIsNaN (biquadOut x input) = true) :
    biquadOut x input = fNaN :=
  fsub_eq_fNaN_of_isNaN h

/-- The feedback product `OUT1 * Y1` is the canonical NaN then, and the two differences carry it to the output. -/
theorem biquadOut_of_nan_y1 {x : Voice} (h : fIsNaN x.y1 = true) (input : F32) : biquadOut x input = fNaN := by
  have hprod : fmul x.taps.out1 x.y1 = fNaN := fmul_of_nan (.inr h)
  calc biquadOut x input
      = fsub (fsub _ (fmul x.taps.out1 x.y1)) (fmul x.taps.out2 x.y2) := rfl
    _ = fsub fNaN (fmul x.taps.out2 x.y2) := by rw [hprod, fsub_of_nan (b := fNaN) (.inr rfl)]
    _ = fNaN := fsub_of_nan (.inl rfl)

/-- Settles O42. -/
theorem bqsampRunsTheDifferenceEquation : Obligations.BqsampRunsTheDifferenceEquation :=
  fun _ _ _ input hv => ⟨exec_bqsamp hv input, biquadOut_eq_fNaN_of_isNaN⟩

/-- Settles O43, by induction on the inputs: each output is the canonical NaN, and is itself the next `Y1`. -/
theorem naNStaysInTheHistory : Obligations.NaNStaysInTheHistory := by
  intro s v x inputs hv hnan
  induction inputs generalizing s x with
  | nil => exact ⟨s, x, rfl, hv, hnan, rfl⟩
  | cons input rest ih =>
    have hout : biquadOut x input = fNaN := biquadOut_of_nan_y1 hnan input
    have hv' : (respond fNaN (s.setVoice v (biquad x input).2)).voice? v = some (biquad x input).2 :=
      State.voice?_setVoice (State.lt_nv_of_voice? hv) _
    have hnan' : fIsNaN (biquad x input).2.y1 = true := by rw [biquad_y1, hout]; rfl
    obtain ⟨t, y, hrun, hy, hynan, hresp⟩ := ih _ _ hv' hnan'
    refine ⟨t, y, ?_, hy, hynan, ?_⟩
    · rw [List.map_cons, execAll_cons (exec_bqsamp hv input), hout, hrun]
    · rw [hresp, List.length_cons, List.replicate_succ', List.append_assoc]
      rfl

end Sys2Proof.Machine
end

section
/-! The five commands that run a voice (42_biquad R176). Each has an effect that the context and the globals alone
determine, the same for every number the context may stand under; hence so are the responses of a sequence of them, and
`COPY` makes two voices interchangeable. -/

namespace Sys2Proof.Machine

/-! ## What the commands read besides the context -/

/-- The two states agree in the globals that the five commands read, the table included. -/
structure SameGlobals (s t : State) : Prop where
  params : t.params = s.params
  tblRdy : t.tblRdy = s.tblRdy
  tlen : t.tlen = s.tlen
  frqti : t.frqti = s.frqti
  cosoffs : t.cosoffs = s.cosoffs

section
variable {s t : State}

theorem SameGlobals.refl (s : State) : SameGlobals s s := ⟨rfl, rfl, rfl, rfl, rfl⟩

/-- With the contexts and the record of one state put into the other, commands on `v` read nothing that differs. -/
theorem SameGlobals.agreeOn (h : SameGlobals s t) (v : VoiceNo) :
    AgreeOn v 0 s { t with voices := s.voices, defs := s.defs } :=
  ⟨h.params, h.tblRdy, h.tlen, h.frqti, h.cosoffs, rfl, rfl, rfl⟩

theorem SameGlobals.inRange (h : SameGlobals s t) : t.inRange = s.inRange := (h.agreeOn 0).inRange

theorem SameGlobals.refresh (h : SameGlobals s t) : t.refresh = s.refresh := (h.agreeOn 0).refresh

theorem SameGlobals.reject (h : SameGlobals s t) (c : Status) (w : Cmd) : SameGlobals s (reject c w t) := by
  rw [reject_eq]
  exact { h with }

theorem SameGlobals.respond_setVoice (h : SameGlobals s t) (d : Word) (v : VoiceNo) (y : Voice) :
    SameGlobals s (respond d (t.setVoice v y)) :=
  { h with }

end

/-! ## Effects -/

/-- What a command does on a voice, whatever number the voice has: it is rejected, it answers and stores the new
context, or it stops the machine. -/
inductive Effect where
  | rejects (c : Status)
  | stores (d : Word) (y : Voice)
  | stops (f : Fault)

/-- The effect brought about on voice `v` by the command `i`. -/
def Effect.on (v : VoiceNo) (i : Instr) (s : State) : Effect → Result
  | .rejects c => rejected c i s
  | .stores d y => done d (s.setVoice v y)
  | .stops f => .fault f

/-- The effect `e` is what the command does on a voice with context `x`, in every state with the globals of `s`. -/
def VoiceOp.HasEffect (op : VoiceOp) (s : State) (x : Voice) (e : Effect) : Prop :=
  ∀ ⦃v : VoiceNo⦄ ⦃t : State⦄, SameGlobals s t → t.voice? v = some x → exec (op.on v) t = e.on v (op.on v) t

/-- The effect of `SAMPLE` once its two checks have passed (R181 to R191). -/
def sampleEffect (s : State) (x : Voice) (input : F32) : Effect :=
  if s.inRange (fmul x.lvl s.frqti) then
    match s.refresh (floorIdx (fmul x.lvl s.frqti)) (envAdvance s.params.expk x) with
    | none => .stops .tableRange
    | some y => .stores (biquadOut y input) (biquad y input).2
  else .stores input (envAdvance s.params.expk x)

section
variable {s t : State} {v : VoiceNo} {x : Voice}

theorem exec_sample (hv : s.voice? v = some x) (hrdy : s.tblRdy = true) (h : x.seg ≠ .idle) (input : F32) :
    exec (.sample v input) s = (sampleEffect s x input).on v (.sample v input) s := by
  refine (withVoice_some hv).trans ((if_neg (by simp [hrdy])).trans ((if_neg h).trans ?_))
  unfold sampleEffect
  dsimp only [envStep]
  split
  · cases s.refresh (floorIdx (fmul x.lvl s.frqti)) (envAdvance s.params.expk x) <;> rfl
  · rfl

theorem SameGlobals.sampleEffect (h : SameGlobals s t) (x : Voice) (input : F32) :
    sampleEffect t x input = sampleEffect s x input := by
  unfold Machine.sampleEffect
  rw [h.inRange, h.refresh, h.frqti, h.params]

theorem sample_exists_hasEffect (s : State) (x : Voice) (input : F32) :
    ∃ e, (VoiceOp.sample input).HasEffect s x e := by
  cases hrdy : s.tblRdy with
  | false =>
    exact ⟨.rejects .tblNotReady, fun v t hg hv => (withVoice_some hv).trans (if_pos (by simp [hg.tblRdy, hrdy]))⟩
  | true =>
    have hcheck {t : State} (hg : SameGlobals s t) : ¬(!t.tblRdy) = true := by simp [hg.tblRdy, hrdy]
    by_cases hidle : x.seg = .idle
    · exact ⟨.rejects .notInit, fun v t hg hv =>
        (withVoice_some hv).trans ((if_neg (hcheck hg)).trans (if_pos hidle))⟩
    · refine ⟨sampleEffect s x input, fun v t hg hv => ?_⟩
      rw [← hg.sampleEffect]
      exact exec_sample hv (hg.tblRdy.trans hrdy) hidle input

/-- A command whose only check is that the voice is not `IDLE` has an effect. -/
theorem exists_hasEffect_of_idle_check {op : VoiceOp} (d : Word) (y : Voice)
    (h : ∀ v t, SameGlobals s t → t.voice? v = some x →
      exec (op.on v) t = if x.seg = .idle then rejected .notInit (op.on v) t else done d (t.setVoice v y)) :
    ∃ e, op.HasEffect s x e := by
  by_cases hidle : x.seg = .idle
  · exact ⟨.rejects .notInit, fun v t hg hv => (h v t hg hv).trans (if_pos hidle)⟩
  · exact ⟨.stores d y, fun v t hg hv => (h v t hg hv).trans (if_neg hidle)⟩

/-- Each of the five commands has an effect that the context and the globals determine. -/
theorem VoiceOp.exists_hasEffect (op : VoiceOp) (s : State) (x : Voice) : ∃ e, op.HasEffect s x e := by
  cases op with
  | sample input => exact sample_exists_hasEffect s x input
  | bqsamp input => exact ⟨.stores _ _, fun _ _ _ hv => exec_bqsamp hv input⟩
  | egen =>
    refine exists_hasEffect_of_idle_check x.lvl (envAdvance s.params.expk x) fun v t hg hv => ?_
    rw [← hg.params]
    exact withVoice_some hv
  | release =>
    refine exists_hasEffect_of_idle_check 0 (releaseVoice s.params.expk x) fun v t hg hv => ?_
    rw [← hg.params]
    exact withVoice_some hv
  | freset phase =>
    refine exists_hasEffect_of_idle_check 0
      (envSkip s.params.expk phase.toNat (restart s.params.expk x.clearHistory)) fun v t hg hv => ?_
    rw [← hg.params]
    exact withVoice_some hv

end

/-! ## Sequences of the commands, and `COPY` -/

/-- The responses of a sequence of the commands depend on the context it starts from and on the globals, not on the
voice number. -/
theorem exists_responses_of_ops (ops : List VoiceOp) (s : State) (x : Voice) :
    ∃ out : Option (List Response), ∀ v t, SameGlobals s t → t.voice? v = some x →
      (execAll (ops.map (·.on v)) t).map (·.responses) = out.map (· ++ t.responses) := by
  induction ops generalizing x with
  | nil => exact ⟨some [], fun _ _ _ _ => rfl⟩
  | cons op ops ih =>
    obtain ⟨e, he⟩ := op.exists_hasEffect s x
    cases e with
    | stops f =>
      refine ⟨none, fun v t hg hv => ?_⟩
      rw [List.map_cons, execAll, he hg hv]
      rfl
    | rejects c =>
      obtain ⟨out, hout⟩ := ih x
      refine ⟨out.map (· ++ [{ status := c, data := 0 }]), fun v t hg hv => ?_⟩
      rw [List.map_cons, execAll_cons (he hg hv),
        hout v _ (hg.reject c _) ((reject_voice? c _ t v).trans hv), reject_eq]
      simp [Function.comp_def]
    | stores d y =>
      obtain ⟨out, hout⟩ := ih y
      refine ⟨out.map (· ++ [{ status := .ok, data := d }]), fun v t hg hv => ?_⟩
      rw [List.map_cons, execAll_cons (he hg hv), hout v _ (hg.respond_setVoice d v y)
        (State.voice?_setVoice (State.lt_nv_of_voice? hv) y)]
      simp [Function.comp_def]

/-- `COPY` onto itself stores the context that is there already. -/
theorem exec_copy {s : State} {vd vs : VoiceNo} {x : Voice} (hvd : vd.toNat < s.nv) (hvs : s.voice? vs = some x) :
    exec (.copy vd vs) s = done 0 (s.setVoice vd x) := by
  obtain ⟨y, hy⟩ := State.exists_voice hvd
  calc exec (.copy vd vs) s
      = if vd = vs then done 0 s else done 0 (s.setVoice vd x) := (withVoice_some hy).trans (withVoice_some hvs)
    _ = done 0 (s.setVoice vd x) := by
      split
      · next hsame => rw [hsame, State.setVoice_same hvs]
      · rfl

theorem copy_voices_equal {s t : State} {vd vs : VoiceNo} {x : Voice} (hvd : vd.toNat < s.nv)
    (hvs : s.voice? vs = some x) (hexec : exec (.copy vd vs) s = .next t) :
    t.voice? vd = some x ∧ t.voice? vs = some x := by
  rw [exec_copy hvd hvs, done_eq_next] at hexec
  subst hexec
  have hvd' : (s.setVoice vd x).voice? vd = some x := State.voice?_setVoice hvd x
  refine ⟨hvd', ?_⟩
  by_cases hsame : vs = vd
  · rw [hsame]
    exact hvd'
  · exact (State.voice?_setVoice_ne s hsame x).trans hvs

/-- Settles O38: after `COPY` the two voices hold one context in one state, and the responses depend on nothing else. -/
theorem copyRoundTrip : Obligations.CopyRoundTrip := by
  intro s t vd vs ops hvd hvs hexec
  obtain ⟨x, hx⟩ := State.exists_voice hvs
  obtain ⟨hd, hs⟩ := copy_voices_equal hvd hx hexec
  obtain ⟨out, hout⟩ := exists_responses_of_ops ops t x
  rw [hout vd t (.refl t) hd, hout vs t (.refl t) hs]

end Sys2Proof.Machine
end

section
/-! The voice commands (43_coupling R192 to R194): which segment a restarted envelope is in, what `FINIT`, `FRESET` and
`COPY` carry out, and how many of the steps `FRESET` skips can matter. -/

namespace Sys2Proof.Machine

/-! ## The envelope started again -/

theorem restart_seg_ne_idle (e : F32) (x : Voice) : (restart e x).seg ≠ .idle :=
  enterSeg_seg_ne_idle (by decide) e _

theorem restart_attack {x : Voice} (hatk : x.atkRt ≠ 0) (e : F32) :
    restart e x = enterRamp e .attack x.atkRt x.atkLvl { x with lvl := x.startLvl } :=
  enterAttack_ramp hatk

/-- An attack of rate zero is skipped, and the level jumps to the attack level (R143). -/
theorem restart_skip {x : Voice} (hatk : x.atkRt = 0) (e : F32) :
    restart e x = enterDecay e { x with lvl := x.atkLvl } :=
  enterAttack_zero hatk

/-- `COEF` of a ramp of `n` steps on the given curve (R143, R147). -/
def rampCoef (e : F32) (c : Curve) (n : Word) : F32 :=
  match c with
  | .lin => fZero
  | .exp => expCoef e n

theorem enterRamp_eq_rampCoef (e : F32) (g : Seg) (n : Word) (t : F32) (x : Voice) :
    enterRamp e g n t x =
      { x with seg := g, pos := 0, cnt := n, tgt := t, crv := x.curve, coef := rampCoef e x.curve n } := by
  unfold enterRamp
  cases x.curve <;> rfl

/-- The first segment whose rate is not zero is entered, from the level the ones before it jump to (R143, R156). -/
theorem restart_eq (e : F32) (x : Voice) :
    restart e x = { x with
      seg := if x.atkRt ≠ 0 then .attack else if x.decRt ≠ 0 then .decay else .sustain
      lvl := if x.atkRt ≠ 0 then x.startLvl else if x.decRt ≠ 0 then x.atkLvl else x.susLvl
      pos := 0
      cnt := if x.atkRt ≠ 0 then x.atkRt else x.decRt
      tgt := if x.atkRt ≠ 0 then x.atkLvl else x.susLvl
      crv := if x.atkRt = 0 ∧ x.decRt = 0 then .lin else x.curve
      coef := if x.atkRt ≠ 0 then rampCoef e x.curve x.atkRt
        else if x.decRt ≠ 0 then rampCoef e x.curve x.decRt else fZero } := by
  by_cases hatk : x.atkRt = 0
  · rw [restart_skip hatk]
    by_cases hdec : x.decRt = 0
    · rw [enterDecay_zero (x := { x with lvl := x.atkLvl }) hdec]
      simp only [ne_eq, hatk, hdec, not_true_eq_false, if_false, and_self, if_true]
      rfl
    · rw [enterDecay_ramp (x := { x with lvl := x.atkLvl }) hdec, enterRamp_eq_rampCoef]
      simp only [ne_eq, hatk, hdec, not_true_eq_false, not_false_eq_true, if_false, and_false, if_true]
  · rw [restart_attack hatk, enterRamp_eq_rampCoef]
    simp only [ne_eq, hatk, not_false_eq_true, if_false, false_and, if_true]

/-! ## The commands carried out -/

section
variable {s : State} {v : VoiceNo} {x : Voice}

theorem exec_finit (hv : s.voice? v = some x) (hrdy : s.tblRdy = true) (hdefs : firstInvalid s.defs allDefWords = .ok) :
    exec (.finit v) s = done 0 (s.setVoice v (initVoice s.params.expk s.defs x)) :=
  (withVoice_some hv).trans ((if_neg (by simp [hrdy])).trans (if_neg (by simp [hdefs])))

theorem exec_freset (hv : s.voice? v = some x) (h : x.seg ≠ .idle) (phase : Word) :
    exec (.freset v phase) s = done 0 (s.setVoice v
      (envSkip s.params.expk phase.toNat (restart s.params.expk x.clearHistory))) :=
  (withVoice_some hv).trans (if_neg h)

end

/-- The check of `FINIT` on a record, word by word: three rates, the curve and the filter type (R192, R211). -/
theorem firstInvalid_allDefWords_eq_ok {d : DefRecord} (hatk : 0 ≤ d.atkRt.toInt) (hdec : 0 ≤ d.decRt.toInt)
    (hrel : 0 ≤ d.relRt.toInt) (hcurve : d.curve.toNat ≤ 1) (hftype : d.ftype = 0) :
    firstInvalid d allDefWords = .ok := by
  refine firstInvalid_eq_ok.2 fun k _ => ?_
  cases k with
  | atkRt => exact (validDefWord_rate (by decide)).2 hatk
  | decRt => exact (validDefWord_rate (by decide)).2 hdec
  | relRt => exact (validDefWord_rate (by decide)).2 hrel
  | curve => exact if_neg (Nat.not_lt.2 hcurve)
  | ftype => exact if_neg fun hne => hne (congrArg BitVec.toNat hftype)
  | _ => rfl

/-- Settles O32: no step is skipped, so that the context is that of the restart. -/
theorem fresetRestartsTheEnvelope : Obligations.FresetRestartsTheEnvelope := by
  intro s v x hv hseg coefOf y
  have hy : restart s.params.expk x.clearHistory = y := restart_eq _ _
  rw [exec_freset hv hseg]
  exact congrArg (fun z => done 0 (s.setVoice v z)) hy

/-- Settles O31: the record is legal, and the context is the restart of the one that holds the record's definition. -/
theorem finitInitialisesTheVoice : Obligations.FinitInitialisesTheVoice := by
  intro s v x hrdy hv hatk hdec hrel hcurve hftype d curve coefOf y
  have hcoef : rampCoef s.params.expk curve = coefOf := by
    funext n
    by_cases hlin : d.curve = 0
    · simp only [curve, coefOf, if_pos hlin]
      rfl
    · simp only [curve, coefOf, if_neg hlin]
      rfl
  have hy : initVoice s.params.expk s.defs x = y := by
    simp only [y, ← hcoef]
    exact restart_eq _ _
  rw [exec_finit hv hrdy (firstInvalid_allDefWords_eq_ok hatk hdec hrel hcurve hftype), hy]
  rfl

/-! ## The steps `FRESET` skips -/

/-- Settles O33: both run the envelope from the same restarted context, by `execAll_egen`. -/
theorem fresetSkipsLikeEgen : Obligations.FresetSkipsLikeEgen := by
  intro s v x ph hv hseg
  let y := restart s.params.expk x.clearHistory
  have hv' : (respond 0 (s.setVoice v y)).voice? v = some y := State.voice?_setVoice (State.lt_nv_of_voice? hv) y
  obtain ⟨r, hr⟩ := execAll_egen hv' (restart_seg_ne_idle _ _) ph.toNat
  refine ⟨_, _, exec_freset hv hseg ph, (execAll_cons (exec_freset hv hseg 0) _).trans hr, ?_⟩
  show respond 0 (s.setVoice v (envSkip s.params.expk ph.toNat y)) =
    respond 0 ((s.setVoice v y).setVoice v (envSkip s.params.expk ph.toNat y))
  rw [State.setVoice_setVoice]

theorem envSkip_hold {e : F32} {x : Voice} (h : x.seg.isRamp = false) (n : Nat) : envSkip e n x = x := by
  cases n <;> simp [envSkip, h]

theorem envSkip_add (e : F32) (m n : Nat) (x : Voice) : envSkip e (m + n) x = envSkip e n (envSkip e m x) := by
  induction m generalizing x with
  | zero => rw [Nat.zero_add, envSkip_zero]
  | succ m ih => rw [Nat.succ_add, envSkip_succ, envSkip_succ, ih]

/-- A ramp that is entered takes as many steps as its rate says. -/
theorem envSkip_enterRamp {e : F32} {g : Seg} (hramp : g.isRamp = true) {n : Word} (hn : n ≠ 0) (t : F32)
    (x : Voice) : envSkip e n.toNat (enterRamp e g n t x) = rampEnd e (enterRamp e g n t x) := by
  obtain ⟨m, hm⟩ : ∃ m, n.toNat = m + 1 :=
    Nat.exists_eq_succ_of_ne_zero fun h => hn (BitVec.eq_of_toNat_eq h)
  rw [hm]
  exact envSkip_completes (x := enterRamp e g n t x) hramp e ((Nat.zero_add _).trans hm.symm)

theorem envSkip_enterDecay_seg (e : F32) {x : Voice} {n : Nat} (hn : x.decRt.toNat = n) :
    (envSkip e n (enterDecay e x)).seg = .sustain := by
  subst hn
  by_cases hdec : x.decRt = 0
  · rw [enterDecay_zero hdec, envSkip_hold rfl]
    rfl
  · rw [enterDecay_ramp hdec, envSkip_enterRamp rfl hdec, rampEnd_decay rfl]
    rfl

/-- The attack and the decay last as many steps as their rates say, and `SUSTAIN` follows (R142, R193). -/
theorem envSkip_restart_seg (e : F32) (x : Voice) :
    (envSkip e (x.atkRt.toNat + x.decRt.toNat) (restart e x)).seg = .sustain := by
  by_cases hatk : x.atkRt = 0
  · have hzero : x.atkRt.toNat = 0 := congrArg BitVec.toNat hatk
    rw [restart_skip hatk, hzero, Nat.zero_add]
    exact envSkip_enterDecay_seg e rfl
  · rw [restart_attack hatk, envSkip_add, envSkip_enterRamp rfl hatk, rampEnd_attack rfl]
    exact envSkip_enterDecay_seg e rfl

/-- Steps beyond those that reach a hold state change nothing. -/
theorem envSkip_min {e : F32} {x : Voice} {m : Nat} (h : (envSkip e m x).seg.isRamp = false) (n : Nat) :
    envSkip e (min n m) x = envSkip e n x := by
  rcases Nat.le_total n m with hle | hle
  · rw [Nat.min_eq_left hle]
  · obtain ⟨k, rfl⟩ := Nat.exists_eq_add_of_le hle
    rw [Nat.min_eq_right hle, envSkip_add, envSkip_hold h]

/-- Settles O34: after `ATK_RT + DEC_RT` steps the envelope holds. -/
theorem fresetPhaseSaturates : Obligations.FresetPhaseSaturates := by
  intro s v x ph hv hseg hsum
  have hholds : (envSkip s.params.expk (x.atkRt.toNat + x.decRt.toNat)
      (restart s.params.expk x.clearHistory)).seg.isRamp = false :=
    congrArg Seg.isRamp (envSkip_restart_seg s.params.expk x.clearHistory)
  have hmin : (BitVec.ofNat 32 (min ph.toNat (x.atkRt.toNat + x.decRt.toNat))).toNat =
      min ph.toNat (x.atkRt.toNat + x.decRt.toNat) := Nat.mod_eq_of_lt (by omega)
  rw [exec_freset hv hseg, exec_freset hv hseg, hmin, envSkip_min hholds]

/-! ## `COPY` -/

/-- Settles O37: the context stored is the source's own. -/
theorem copyCopiesEveryRegister : Obligations.CopyCopiesEveryRegister :=
  fun _ _ _ _ hvd hvs => exec_copy hvd hvs

end Sys2Proof.Machine
end

section
/-! `SAMPLE` (43_coupling R181 to R191, R196): the range check as a test of the floor, and what the command leaves
out of range, with the index cached, and in any state of the invariant. -/

namespace Sys2Proof.Machine

/-! ## The range check (R184) -/

theorem State.inRange_iff {s : State} {p : F32} :
    s.inRange p = true ↔ fge p 0 = true ∧ flt p (i2f s.cosoffs.toInt) = true :=
  Bool.and_eq_true_iff

theorem fge_zero_iff {p : F32} : fge p 0 = true ↔ fIsNaN p = false ∧ 0 ≤ fVal p := by
  have hnan : fIsNaN (0 : F32) = false := rfl
  have hval : fVal (0 : F32) = 0 := rfl
  rw [fge, hnan, hval]
  simp

theorem flt_irrefl (x : F32) : flt x x = false := by
  simp [flt]

theorem fVal_eq_or (x : F32) : fVal x = fMag x ∨ fVal x = -(fMag x : Int) := by
  unfold fVal
  split
  · exact .inr rfl
  · exact .inl rfl

/-- Below a finite value there is no positive infinity. -/
theorem fIsFinite_of_flt {p b : F32} (h0 : 0 ≤ fVal p) (hb : fIsFinite b = true) (h : flt p b = true) :
    fIsFinite p = true := by
  have hnan : fIsNaN p = false := by
    simp only [flt, Bool.and_eq_true, Bool.not_eq_true'] at h
    exact h.1.1
  refine Bool.of_not_eq_false fun hinf => ?_
  have hmag : fMag b < fMag p := by
    rw [fMag_of_not_finite hinf hnan]
    exact fMag_lt_of_finite hb
  have hlt : fVal p < fVal b := fVal_lt_of_flt h
  have hp := fVal_eq_or p
  have hb := fVal_eq_or b
  omega

theorem flt_of_finite {a b : F32} (ha : fIsFinite a = true) (hb : fIsFinite b = true) :
    flt a b = true ↔ fVal a < fVal b := by
  simp [flt, fIsNaN_of_finite ha, fIsNaN_of_finite hb]

/-- `COSOFFS` of a session is converted exactly. -/
theorem State.Ok.i2f_cosoffs {s : State} (h : s.Ok) (hrdy : s.tblRdy = true) :
    fVal (i2f s.cosoffs.toInt) = s.cosoffs.toInt * 2 ^ 149 ∧ fIsFinite (i2f s.cosoffs.toInt) = true := by
  obtain ⟨k, hk2, hk24, -, -, -, -, hcos⟩ := h.length hrdy
  have hlt : 2 ^ (k - 2) < 2 ^ 24 := Nat.pow_lt_pow_right (by decide) (by omega)
  have hcast : s.cosoffs.toInt = ((2 ^ (k - 2) : Nat) : Int) := by rw [hcos]; simp
  rw [hcast]
  exact fVal_i2f hlt

/-- Settles O47: the comparisons are those of the exact values, `COSOFFS` included, which is converted exactly. -/
theorem rangeCheckIsTheFloorTest : Obligations.RangeCheckIsTheFloorTest := by
  intro s p hok hrdy
  obtain ⟨hval, hfin⟩ := hok.i2f_cosoffs hrdy
  refine ⟨⟨fun hrange => ?_, fun ⟨hp, h0, hfloor⟩ => ?_⟩, fun hrange => ?_, ?_⟩
  · obtain ⟨hge, hlt⟩ := State.inRange_iff.1 hrange
    have h0 := (fge_zero_iff.1 hge).2
    refine ⟨fIsFinite_of_flt h0 hfin hlt, h0, Int.ediv_lt_of_lt_mul (by decide) ?_⟩
    rw [← hval]
    exact fVal_lt_of_flt hlt
  · refine State.inRange_iff.2 ⟨fge_zero_iff.2 ⟨fIsNaN_of_finite hp, h0⟩, (flt_of_finite hp hfin).2 ?_⟩
    rw [hval]
    exact Int.lt_mul_of_ediv_lt (by decide) hfloor
  · exact floorIdx_eq (fge_zero_iff.1 (State.inRange_iff.1 hrange).1).2
  · exact Bool.and_eq_false_imp.2 fun _ => flt_irrefl _

/-! ## The filter on a voice whose envelope has advanced -/

/-- The filter does not read the envelope's progress, and keeps it. -/
theorem biquad_of_sameBesidesProgress {x y : Voice} (h : x.SameBesidesProgress y) (input : F32) :
    biquad y input =
      (biquadOut x input, { y with x2 := x.x1, x1 := input, y2 := x.y1, y1 := biquadOut x input }) := by
  obtain ⟨-, -, -, htaps, hx1, hx2, hy1, hy2, -⟩ := Voice.sameBesidesProgress_iff.1 h
  simp only [biquad, biquadOut, htaps, hx1, hx2, hy1, hy2]

/-! ## What `SAMPLE` leaves -/

section
variable {s : State} {v : VoiceNo} {x : Voice}

theorem exec_sample_bypass (hv : s.voice? v = some x) (hrdy : s.tblRdy = true) (hseg : x.seg ≠ .idle)
    (h : s.inRange (fmul x.lvl s.frqti) = false) (input : F32) :
    exec (.sample v input) s = done input (s.setVoice v (envAdvance s.params.expk x)) := by
  rw [exec_sample hv hrdy hseg, sampleEffect, if_neg (Bool.eq_false_iff.1 h)]
  rfl

/-- In range, the filter runs on the context that steps 4 and 5 leave (R189). -/
theorem exec_sample_filters {y : Voice} (hv : s.voice? v = some x) (hrdy : s.tblRdy = true) (hseg : x.seg ≠ .idle)
    (h : s.inRange (fmul x.lvl s.frqti) = true)
    (hy : s.refresh (floorIdx (fmul x.lvl s.frqti)) (envAdvance s.params.expk x) = some y) (input : F32) :
    exec (.sample v input) s = done (biquad y input).1 (s.setVoice v (biquad y input).2) := by
  rw [exec_sample hv hrdy hseg, sampleEffect, if_pos h, hy]
  rfl

/-- With the index cached, steps 4 and 5 do nothing (R188). -/
theorem exec_sample_cached (hv : s.voice? v = some x) (hrdy : s.tblRdy = true) (hseg : x.seg ≠ .idle)
    (h : s.inRange (fmul x.lvl s.frqti) = true) (hidx : x.lastIdx = BitVec.ofNat 32 (floorIdx (fmul x.lvl s.frqti)))
    (input : F32) :
    let y := envAdvance s.params.expk x
    exec (.sample v input) s = done (biquad y input).1 (s.setVoice v (biquad y input).2) := by
  obtain ⟨-, -, -, -, -, -, -, -, hlast⟩ := Voice.sameBesidesProgress_iff.1 (envAdvance_frame s.params.expk x)
  exact exec_sample_filters hv hrdy hseg h (State.refresh_eq_some.2 (.inl ⟨(hlast.trans hidx).symm, rfl⟩)) input

/-- The coefficients of an index in a session (R186). -/
def State.tapsAt (s : State) (idx : Nat) : Taps :=
  tapsOf (sinRom s.params.sinRom s.tlen.toNat idx) (sinRom s.params.sinRom s.tlen.toNat (idx + s.cosoffs.toNat))

/-- The context that holds the coefficients of the index, cached under it. -/
def State.recache (s : State) (idx : Nat) (x : Voice) : Voice :=
  { x with taps := s.tapsAt idx, lastIdx := BitVec.ofNat 32 idx }

theorem Voice.SameBesidesProgress.recache {y : Voice} (h : x.SameBesidesProgress y) (s : State) (idx : Nat) :
    (s.recache idx x).SameBesidesProgress (s.recache idx y) := by
  unfold Voice.SameBesidesProgress at h ⊢
  exact congrArg (s.recache idx) h

/-- Cached or computed, the coefficients are those of the index (R66 (f), R185, R188). -/
theorem State.Ok.refresh_eq {idx : Nat} (h : s.Ok) (hrdy : s.tblRdy = true) (hx : x.Ok s)
    (hidx : idx < zext32 s.cosoffs) : s.refresh idx x = some (s.recache idx x) := by
  have hcoef : s.coefLP idx = some (s.tapsAt idx) := h.coefLP_isSome hrdy hidx
  by_cases hcached : BitVec.ofNat 32 idx = x.lastIdx
  · have hlt : idx + 1 < 2 ^ 32 := Nat.lt_of_le_of_lt hidx s.cosoffs.isLt
    have hnat : zext32 x.lastIdx = idx := by
      rw [← hcached]
      exact Nat.mod_eq_of_lt (by omega)
    have hvalid : x.lastIdx ≠ noIdx := fun hno => by
      have hmax : zext32 noIdx + 1 = 2 ^ 32 := rfl
      rw [← hno] at hmax
      omega
    have htaps : s.tapsAt idx = x.taps := by
      have hcache := hx.cache hvalid
      rw [hnat, hcoef] at hcache
      exact Option.some.inj hcache
    exact State.refresh_eq_some.2 (.inl ⟨hcached, by rw [State.recache, htaps, hcached]⟩)
  · exact State.refresh_eq_some.2 (.inr ⟨hcached, _, hcoef, rfl⟩)

theorem State.Ok.voice_ok (h : s.Ok) (hv : s.voice? v = some x) : x.Ok s := h.voices x (State.voice?_mem hv)

/-- In a state of the invariant a sample in range is filtered with the coefficients of its index, whatever was
cached. -/
theorem State.Ok.exec_sample_inRange (h : s.Ok) (hv : s.voice? v = some x) (hseg : x.seg ≠ .idle)
    (hrange : s.inRange (fmul x.lvl s.frqti) = true) (input : F32) :
    let y := s.recache (floorIdx (fmul x.lvl s.frqti)) (envAdvance s.params.expk x)
    exec (.sample v input) s = done (biquad y input).1 (s.setVoice v (biquad y input).2) := by
  have hx : x.Ok s := h.voice_ok hv
  have hrdy : s.tblRdy = true := hx.ready hseg
  exact exec_sample_filters hv hrdy hseg hrange
    (h.refresh_eq hrdy (envAdvance_ok hx _) (h.floorIdx_lt hrdy hrange)) input

end

/-- Settles O44: out of range the command ends after the step of the envelope. -/
theorem sampleBypassesOutOfRange : Obligations.SampleBypassesOutOfRange :=
  fun _ _ _ input hrdy hv hseg hout =>
    exec_sample_bypass hv hrdy hseg (Bool.eq_false_iff.2 (mt State.inRange_iff.1 hout)) input

/-- Settles O46: the filter runs on the context whose envelope alone has advanced. -/
theorem sampleReusesTheCachedIndex : Obligations.SampleReusesTheCachedIndex := by
  intro s v x input hrdy hv hseg p hge hlt hidx y
  rw [exec_sample_cached hv hrdy hseg (State.inRange_iff.2 ⟨hge, hlt⟩) hidx,
    biquad_of_sameBesidesProgress (envAdvance_frame _ x)]
  rfl

/-- Settles O45: the filter runs on the context that holds the coefficients of the index. -/
theorem sampleRecomputesOnANewIndex : Obligations.SampleRecomputesOnANewIndex := by
  intro s v x input hok hv hseg p idx hge hlt _ sinVal cosVal c c2 cSqrt2 denom in1 out1 out2 y
  rw [hok.exec_sample_inRange hv hseg (State.inRange_iff.2 ⟨hge, hlt⟩),
    biquad_of_sameBesidesProgress ((envAdvance_frame _ x).recache s _)]
  rfl

/-! ## Index 0 (R196) -/

/-- The table's first entry is zero, and the one a quarter ahead is one. -/
theorem State.Ok.tapsAt_zero {s : State} (h : s.Ok) (hrdy : s.tblRdy = true) (hrom : s.params.sinRom = .rounded) :
    s.tapsAt 0 = { in0 := 0, in1 := 0, in2 := 0, out1 := fNaN, out2 := fNaN } := by
  obtain ⟨k, hk2, -, -, htlen, -, hcos, -⟩ := h.length hrdy
  have hq : 0 < 2 ^ (k - 2) := Nat.two_pow_pos _
  calc s.tapsAt 0
      = tapsOf (roundedSine (4 * 2 ^ (k - 2)) 0) (roundedSine (4 * 2 ^ (k - 2)) (2 ^ (k - 2))) := by
        rw [State.tapsAt, hrom, htlen, hcos, two_pow_eq_four_mul hk2, Nat.zero_add]
        rfl
    _ = tapsOf 0 0x3F800000 := by rw [roundedSine_zero hq, roundedSine_peak hq]
    _ = _ := by decide +kernel

theorem biquadOut_of_nan_out1 {x : Voice} (h : fIsNaN x.taps.out1 = true) (input : F32) : biquadOut x input = fNaN := by
  show fsub (fsub _ (fmul x.taps.out1 x.y1)) (fmul x.taps.out2 x.y2) = fNaN
  rw [fmul_of_nan (.inl h), fsub_of_nan (b := fNaN) (.inr rfl), fsub_of_nan (a := fNaN) (.inl rfl)]

/-- Settles O48: the product `OUT1 * Y1` is the canonical NaN, and the differences carry it to the output. -/
theorem indexZeroGivesNaN : Obligations.IndexZeroGivesNaN := by
  intro s v x input hok hrom hv hseg hrange hidx
  have htaps := hok.tapsAt_zero ((hok.voice_ok hv).ready hseg) hrom
  have hnan : fIsNaN fNaN = true := by decide
  have hout : biquadOut (s.recache 0 x) input = fNaN :=
    biquadOut_of_nan_out1 (by rw [State.recache, htaps]; exact hnan) input
  rw [hok.exec_sample_inRange hv hseg hrange, hidx,
    biquad_of_sameBesidesProgress ((envAdvance_frame _ x).recache s _), hout]
  simp only [State.recache, htaps]
  rfl

end Sys2Proof.Machine
end

section
/-! The cached index (43_coupling R190, R197): a voice that holds its level computes its coefficients once, and
forgetting the index before every sample changes no response. -/

namespace Sys2Proof.Machine

/-! ## A held level (R190) -/

/-- A sample of a voice that holds its level, with the level's index cached, runs the filter and nothing else. -/
theorem exec_sample_held {s : State} {v : VoiceNo} {x : Voice} (hv : s.voice? v = some x) (hrdy : s.tblRdy = true)
    (hseg : x.seg = .sustain ∨ x.seg = .done) (hrange : s.inRange (fmul x.lvl s.frqti) = true)
    (hidx : x.lastIdx = BitVec.ofNat 32 (floorIdx (fmul x.lvl s.frqti))) (input : F32) :
    exec (.sample v input) s = done (biquad x input).1 (s.setVoice v (biquad x input).2) := by
  have hidle : x.seg ≠ .idle := fun h => by simp [h] at hseg
  have hhold : envAdvance s.params.expk x = x := envAdvance_hold (Seg.isRamp_eq_false.2 (.inr hseg))
  rw [exec_sample_cached hv hrdy hidle hrange hidx, hhold]

/-- So does a sequence of them. -/
theorem execAll_sample_held {s : State} {v : VoiceNo} {x : Voice} (hv : s.voice? v = some x) (hrdy : s.tblRdy = true)
    (hseg : x.seg = .sustain ∨ x.seg = .done) (hrange : s.inRange (fmul x.lvl s.frqti) = true)
    (hidx : x.lastIdx = BitVec.ofNat 32 (floorIdx (fmul x.lvl s.frqti))) (inputs : List F32) :
    ∃ t y, execAll (inputs.map (.sample v ·)) s = some t ∧ t.voice? v = some y ∧ t.frqti = s.frqti ∧
      y.taps = x.taps ∧ y.lastIdx = x.lastIdx ∧ y.lvl = x.lvl := by
  induction inputs generalizing s x with
  | nil => exact ⟨s, x, rfl, hv, rfl, rfl, rfl, rfl⟩
  | cons input rest ih =>
    rw [List.map_cons, execAll_cons (exec_sample_held hv hrdy hseg hrange hidx input)]
    exact ih (x := (biquad x input).2) (State.voice?_setVoice (State.lt_nv_of_voice? hv) _) hrdy hseg hrange hidx

/-- Settles O50: the first sample leaves the level's index cached, whether it was or not, and the later ones find it. -/
theorem heldLevelComputesOnce : Obligations.HeldLevelComputesOnce := by
  intro s v x first later hok hv hseg hrange
  have hidle : x.seg ≠ .idle := fun h => by simp [h] at hseg
  have hhold : envAdvance s.params.expk x = x := envAdvance_hold (Seg.isRamp_eq_false.2 (.inr hseg))
  have hfirst := hok.exec_sample_inRange hv hidle hrange first
  rw [hhold] at hfirst
  have hv' := State.voice?_setVoice (State.lt_nv_of_voice? hv)
    (biquad (s.recache (floorIdx (fmul x.lvl s.frqti)) x) first).2
  have hrdy : s.tblRdy = true := (hok.voice_ok hv).ready hidle
  obtain ⟨u, z, hrun, hz, hfrqti, htaps, hlast, hlvl⟩ :=
    execAll_sample_held (s := respond _ (s.setVoice v _)) hv' hrdy hseg hrange rfl later
  refine ⟨_, _, u, z, hfirst, hv', rfl, hrun, hz, htaps, hlast, hlvl, State.refresh_eq_some.2 (.inl ⟨?_, rfl⟩)⟩
  rw [hlast, hlvl, hfrqti]
  rfl

/-! ## The envelope does not read the cached index -/

/-- The context with no index cached. -/
def Voice.forget (x : Voice) : Voice := { x with lastIdx := noIdx }

theorem enterDecay_forget (e : F32) (x : Voice) : enterDecay e x.forget = (enterDecay e x).forget := by
  rw [enterDecay, enterDecay, apply_ite Voice.forget]
  rfl

theorem enterAttack_forget (e : F32) (x : Voice) : enterAttack e x.forget = (enterAttack e x).forget := by
  by_cases h : x.atkRt = 0
  · rw [enterAttack_zero h, enterAttack_zero (x := x.forget) h]
    exact enterDecay_forget e { x with lvl := x.atkLvl }
  · rw [enterAttack_ramp h, enterAttack_ramp (x := x.forget) h]
    rfl

theorem enterRelease_forget (e : F32) (x : Voice) : enterRelease e x.forget = (enterRelease e x).forget := by
  rw [enterRelease, enterRelease, apply_ite Voice.forget]
  rfl

theorem enterSeg_forget (e : F32) (g : Seg) (x : Voice) : enterSeg e g x.forget = (enterSeg e g x).forget := by
  cases g with
  | attack => exact enterAttack_forget e x
  | decay => exact enterDecay_forget e x
  | release => exact enterRelease_forget e x
  | idle | sustain | done => rfl

theorem envAdvance_forget (e : F32) (x : Voice) : envAdvance e x.forget = (envAdvance e x).forget := by
  cases hramp : x.seg.isRamp with
  | false => rw [envAdvance_hold hramp, envAdvance_hold (x := x.forget) hramp]
  | true =>
    by_cases hlast : x.pos + 1 = x.cnt
    · rw [envAdvance_last hramp hlast, envAdvance_last (x := x.forget) hramp hlast]
      exact enterSeg_forget e x.seg.next { x with lvl := x.tgt, pos := x.cnt }
    · rw [envAdvance_within hramp hlast, envAdvance_within (x := x.forget) hramp hlast]
      rfl

/-! ## A state with the index of one voice forgotten -/

/-- The state with no index cached on voice `v`, if there is such a voice: what `sampleForgetting` samples in. -/
def State.forget (v : VoiceNo) (s : State) : State :=
  match s.voice? v with
  | none => s
  | some x => s.setVoice v x.forget

section
variable {s : State} {v : VoiceNo} {x : Voice}

theorem State.forget_none (hv : s.voice? v = none) : s.forget v = s := by
  rw [State.forget, hv]

theorem State.forget_some (hv : s.voice? v = some x) : s.forget v = s.setVoice v x.forget := by
  rw [State.forget, hv]

theorem State.forget_responses (s : State) (v : VoiceNo) : (s.forget v).responses = s.responses := by
  cases hv : s.voice? v with
  | none => rw [State.forget_none hv]
  | some x => rw [State.forget_some hv]; rfl

theorem sampleForgetting_cons {input : F32} {t : State} (h : exec (.sample v input) (s.forget v) = .next t)
    (rest : List F32) : sampleForgetting v (input :: rest) s = sampleForgetting v rest t := by
  cases hv : s.voice? v with
  | none =>
    rw [State.forget_none hv] at h
    simp only [sampleForgetting, hv, h]
  | some x =>
    rw [State.forget_some hv, Voice.forget] at h
    simp only [sampleForgetting, hv, h]

theorem State.forget_respond_setVoice (hv : s.voice? v = some x) (d : Word) (y : Voice) :
    (respond d (s.setVoice v y)).forget v = respond d (s.setVoice v y.forget) := by
  have hy : (respond d (s.setVoice v y)).voice? v = some y := State.voice?_setVoice (State.lt_nv_of_voice? hv) y
  rw [State.forget_some hy, ← State.setVoice_setVoice s v y y.forget]
  rfl

theorem State.forget_reject (s : State) (v : VoiceNo) (c : Status) (w : Cmd) :
    (reject c w s).forget v = reject c w (s.forget v) := by
  cases hv : s.voice? v with
  | none => rw [State.forget_none hv, State.forget_none ((reject_voice? c w s v).trans hv)]
  | some x =>
    rw [State.forget_some hv, State.forget_some ((reject_voice? c w s v).trans hv), reject_eq, reject_eq]
    rfl

theorem State.forget_forget (s : State) (v : VoiceNo) : (s.forget v).forget v = s.forget v := by
  cases hv : s.voice? v with
  | none => rw [State.forget_none hv, State.forget_none hv]
  | some x =>
    have hx : (s.setVoice v x.forget).voice? v = some x.forget := State.voice?_setVoice (State.lt_nv_of_voice? hv) _
    rw [State.forget_some hv, State.forget_some hx, State.setVoice_setVoice]
    rfl

theorem State.Ok.forget (h : s.Ok) (v : VoiceNo) : (s.forget v).Ok := by
  cases hv : s.voice? v with
  | none => rwa [State.forget_none hv]
  | some x =>
    rw [State.forget_some hv]
    exact h.setVoice v ((h.voice_ok hv).setTaps x.taps)

/-! ## `SAMPLE` with the index forgotten (R197) -/

theorem exec_sample_notReady (hv : s.voice? v = some x) (hdown : s.tblRdy = false) (input : F32) :
    exec (.sample v input) s = rejected .tblNotReady (.sample v input) s :=
  (withVoice_some hv).trans (if_pos (by simp [hdown]))

theorem exec_sample_idle (hv : s.voice? v = some x) (hrdy : s.tblRdy = true) (hidle : x.seg = .idle) (input : F32) :
    exec (.sample v input) s = rejected .notInit (.sample v input) s :=
  (withVoice_some hv).trans ((if_neg (by simp [hrdy])).trans (if_pos hidle))

/-- The command is carried out or rejected, and when the cached index of `v` is forgotten before it, the two states it
ends in differ at most in that index. -/
def SameButIndex (v : VoiceNo) (i : Instr) (s : State) : Prop :=
  ∃ t u, exec i s = .next t ∧ exec i (s.forget v) = .next u ∧ u.forget v = t.forget v

theorem sameButIndex_of_rejected {i : Instr} {c : Status} (h : exec i s = rejected c i s)
    (h' : exec i (s.forget v) = rejected c i (s.forget v)) : SameButIndex v i s :=
  ⟨_, _, h, h', by rw [State.forget_reject, State.forget_reject, State.forget_forget]⟩

theorem sameButIndex_of_done {i : Instr} {d : Word} {y z : Voice} (hv : s.voice? v = some x)
    (h : exec i s = done d (s.setVoice v y)) (h' : exec i (s.forget v) = done d ((s.forget v).setVoice v z))
    (hyz : z.forget = y.forget) : SameButIndex v i s := by
  refine ⟨_, _, h, h', ?_⟩
  rw [State.forget_some hv, State.setVoice_setVoice, State.forget_respond_setVoice hv,
    State.forget_respond_setVoice hv, hyz]

/-- A rejected sample and a bypassed one leave the index as they find it; a filtered one finds the coefficients of its
index in either state, held or computed. -/
theorem State.Ok.sample_sameButIndex (h : s.Ok) (v : VoiceNo) (input : F32) : SameButIndex v (.sample v input) s := by
  cases hv : s.voice? v with
  | none =>
    have hreject : exec (.sample v input) s = rejected .badVoice (.sample v input) s := withVoice_none hv
    exact sameButIndex_of_rejected hreject (by rwa [State.forget_none hv])
  | some x =>
    have hforget : s.forget v = s.setVoice v x.forget := State.forget_some hv
    have hv' : (s.setVoice v x.forget).voice? v = some x.forget :=
      State.voice?_setVoice (State.lt_nv_of_voice? hv) _
    cases hrdy : s.tblRdy with
    | false =>
      refine sameButIndex_of_rejected (exec_sample_notReady hv hrdy input) ?_
      rw [hforget]
      exact exec_sample_notReady hv' hrdy input
    | true =>
      by_cases hidle : x.seg = .idle
      · refine sameButIndex_of_rejected (exec_sample_idle hv hrdy hidle input) ?_
        rw [hforget]
        exact exec_sample_idle hv' hrdy hidle input
      have hadv := envAdvance_forget s.params.expk x
      cases hrange : s.inRange (fmul x.lvl s.frqti) with
      | false =>
        refine sameButIndex_of_done (z := envAdvance s.params.expk x.forget) hv
          (exec_sample_bypass hv hrdy hidle hrange input) ?_ (by rw [hadv]; rfl)
        rw [hforget]
        exact exec_sample_bypass hv' hrdy hidle hrange input
      | true =>
        refine sameButIndex_of_done hv (h.exec_sample_inRange hv hidle hrange input) ?_ rfl
        have hok := h.forget v
        have hsame (idx : Nat) : s.recache idx (envAdvance s.params.expk x) =
            s.recache idx (envAdvance s.params.expk x.forget) := by
          rw [hadv]
          rfl
        rw [hforget] at hok ⊢
        rw [hsame]
        exact hok.exec_sample_inRange hv' hidle hrange input

end

/-- Two states that differ at most in the cached index of `v` answer a sequence of samples alike, when one of them
forgets the index before each sample. -/
theorem sampleForgetting_responses {v : VoiceNo} (inputs : List F32) {s s' : State} (h : s.Ok)
    (hsame : s'.forget v = s.forget v) :
    (execAll (inputs.map (.sample v ·)) s).map (·.responses) = (sampleForgetting v inputs s').map (·.responses) := by
  induction inputs generalizing s s' with
  | nil =>
    show some s.responses = some s'.responses
    rw [← State.forget_responses s v, ← hsame, State.forget_responses]
  | cons input rest ih =>
    obtain ⟨t, u, ht, hu, htu⟩ := h.sample_sameButIndex v input
    rw [← hsame] at hu
    rw [List.map_cons, execAll_cons ht, sampleForgetting_cons hu]
    exact ih (exec_keepsOk h _ t ht) htu

/-- Settles O49: with and without the cache, the samples start in the same state. -/
theorem cacheChangesNoOutput : Obligations.CacheChangesNoOutput :=
  fun _ _ inputs hok => sampleForgetting_responses inputs hok rfl

end Sys2Proof.Machine
end

section
/-! Parameter access and the definition record (44_params R211 to R234): what each command writes and answers when it
is carried out, and the round trip of the envelope definition. -/

namespace Sys2Proof.Machine

/-! ## The setters (R212 to R227) -/

section
variable {s : State} {v : VoiceNo} {x : Voice}

/-- The ten definition setters, by the register they write. -/
theorem exec_setDefInstr (hv : s.voice? v = some x) (k : DefWord) {w : Word} (hw : validDefWord k w = .ok) :
    exec (setDefInstr v w k) s = done 0 (s.setVoice v (x.setDef k w)) :=
  calc exec (setDefInstr v w k) s
      = setDefinition k (setDefInstr v w k) v w s := by cases k <;> rfl
    _ = done 0 (s.setVoice v (x.setDef k w)) := (withVoice_some hv).trans (if_pos hw)

/-- The five coefficient setters, by the register they write. -/
theorem exec_setTapInstr (hv : s.voice? v = some x) (t : Tap) (w : Word) :
    exec (setTapInstr v w t) s = done 0 (s.setVoice v (x.setTap t w)) :=
  calc exec (setTapInstr v w t) s
      = setCoefficient t (setTapInstr v w t) v w s := by cases t <;> rfl
    _ = done 0 (s.setVoice v (x.setTap t w)) := withVoice_some hv

end

/-- Settles O51: each setter by its register; a word is checked only for the rates, the curve and the filter type. -/
theorem definitionSettersWriteOneRegister : Obligations.DefinitionSettersWriteOneRegister := by
  intro s v x w hv after
  have hrate (k : DefWord) (hk : k ∈ [DefWord.atkRt, .decRt, .relRt]) (hw : 0 ≤ w.toInt) :
      exec (setDefInstr v w k) s = done 0 (s.setVoice v (x.setDef k w)) :=
    exec_setDefInstr hv k ((validDefWord_rate hk).2 hw)
  exact ⟨exec_setDefInstr hv .startLvl rfl, hrate .atkRt (by decide), exec_setDefInstr hv .atkLvl rfl,
    hrate .decRt (by decide), exec_setDefInstr hv .susLvl rfl, hrate .relRt (by decide),
    exec_setDefInstr hv .relLvl rfl, exec_setDefInstr hv .curve (by decide), exec_setDefInstr hv .curve (by decide),
    exec_setDefInstr hv .gain rfl, exec_setDefInstr hv .ftype (by decide)⟩

/-- Settles O52. -/
theorem coefficientSettersInvalidateTheCache : Obligations.CoefficientSettersInvalidateTheCache :=
  fun _ _ _ w hv => ⟨exec_setTapInstr hv .in0 w, exec_setTapInstr hv .in1 w, exec_setTapInstr hv .in2 w,
    exec_setTapInstr hv .out1 w, exec_setTapInstr hv .out2 w⟩

/-! ## `GETP` (R228) -/

theorem exec_getp {s : State} {v : VoiceNo} {x : Voice} (hv : s.voice? v = some x) (p : VReg) :
    exec (.getp v p) s = done (x.get p) s :=
  withVoice_some hv

theorem packCmd_zero (op : BitVec 8) (v : VoiceNo) (a : BitVec 8) : packCmd op v a 0 = op ++ v ++ a ++ 0#40 := by
  rw [packCmd, BitVec.append_assoc]
  rfl

/-- Settles O53: the rows are the voice registers in the order of their selectors, each with what it reads. -/
theorem getpReadsTheVoice : Obligations.GetpReadsTheVoice := by
  intro s v x hv r hr
  obtain ⟨p, -, rfl⟩ : ∃ p ∈ VReg.all, (p.sel, p, x.get p) = r := List.mem_map.1 hr
  have hwf : (Instr.getp v p).wf s.nv = true := by
    simp [Instr.wf, Instr.voices, State.lt_nv_of_voice? hv]
  exact ⟨decode_of_encode_eq (packCmd_zero _ v p.sel) hwf, exec_getp hv p⟩

/-! ## The definition record (R230, R231) -/

theorem exec_defwr (k : DefWord) (w : Word) (s : State) :
    exec (.defwr k w) s = done 0 { s with defs := s.defs.set k w } := rfl

theorem exec_defrd (k : DefWord) (s : State) : exec (.defrd k) s = done (s.defs.get k) s := rfl

theorem execAll_defwr_defrd (k j : DefWord) (w : Word) (s : State) :
    execAll [.defwr k w, .defrd j] s =
      some (respond ((s.defs.set k w).get j) (respond 0 { s with defs := s.defs.set k w })) := by
  rw [execAll_cons (exec_defwr k w s), execAll_cons (exec_defrd j _)]
  rfl

/-- Settles O54: a word of the record reads back as `DefRecord.get_set` says. -/
theorem definitionRecordReadsBack : Obligations.DefinitionRecordReadsBack := by
  intro s w after d
  refine ⟨?writes, fun r hr => ?reads, fun k j t u hread hpair => ?readsBack⟩
  case writes =>
    exact ⟨exec_defwr .startLvl w s, exec_defwr .atkRt w s, exec_defwr .atkLvl w s, exec_defwr .decRt w s,
      exec_defwr .susLvl w s, exec_defwr .relRt w s, exec_defwr .relLvl w s, exec_defwr .curve w s,
      exec_defwr .gain w s, exec_defwr .ftype w s⟩
  case reads =>
    obtain ⟨k, -, rfl⟩ : ∃ k ∈ DefWord.all, (k, d.get k) = r := List.mem_map.1 hr
    exact exec_defrd k s
  case readsBack =>
    rw [exec_defrd, done_eq_next] at hread
    rw [execAll_defwr_defrd, Option.some_inj] at hpair
    subst hread hpair
    show some ((s.defs.set k w).get j) = if j = k then some w else some (s.defs.get j)
    rw [DefRecord.get_set, apply_ite some]

/-! ## The envelope definition (R232 to R234) -/

section
variable {s : State} {v : VoiceNo} {x : Voice}

theorem exec_getenvdef (hv : s.voice? v = some x) :
    exec (.getenvdef v) s = done 0 { s with defs := s.defs.takeEnvDef x } :=
  withVoice_some hv

theorem exec_setenvdef (hv : s.voice? v = some x) (hdefs : firstInvalid s.defs envDefWords = .ok) :
    exec (.setenvdef v) s = done 0 (s.setVoice v (x.loadEnvDef s.defs)) :=
  (withVoice_some hv).trans (if_pos hdefs)

/-- The check of `SETENVDEF` on a record, word by word: three rates and the curve (R211, R233). -/
theorem firstInvalid_envDefWords_eq_ok {d : DefRecord} (hatk : 0 ≤ sext32 d.atkRt) (hdec : 0 ≤ sext32 d.decRt)
    (hrel : 0 ≤ sext32 d.relRt) (hcurve : zext32 d.curve ≤ 1) : firstInvalid d envDefWords = .ok := by
  refine firstInvalid_eq_ok.2 fun k hk => ?_
  cases k with
  | atkRt => exact (validDefWord_rate (by decide)).2 hatk
  | decRt => exact (validDefWord_rate (by decide)).2 hdec
  | relRt => exact (validDefWord_rate (by decide)).2 hrel
  | curve => exact if_neg (Nat.not_lt.2 hcurve)
  | ftype => exact absurd hk (by decide)
  | startLvl | atkLvl | susLvl | relLvl | gain => rfl

@[simp] theorem Curve.ofWord_word (c : Curve) : Curve.ofWord c.word = c := by cases c <;> rfl

/-- The record taken from a context of the invariant is one `SETENVDEF` accepts (R66 (a), (b)). -/
theorem Voice.Ok.takeEnvDef_valid (h : x.Ok s) (d : DefRecord) : firstInvalid (d.takeEnvDef x) envDefWords = .ok :=
  firstInvalid_envDefWords_eq_ok h.atkRt h.decRt h.relRt x.curve.word_le

theorem Voice.loadEnvDef_takeEnvDef_curve (d : DefRecord) (x y : Voice) :
    (y.loadEnvDef (d.takeEnvDef x)).curve = x.curve :=
  Curve.ofWord_word x.curve

theorem Voice.loadEnvDef_takeEnvDef_self (d : DefRecord) (x : Voice) : x.loadEnvDef (d.takeEnvDef x) = x := by
  simp [Voice.loadEnvDef, DefRecord.takeEnvDef]

/-- The pair from `vs` to `vd`, as one assignment to the context of `vd`. -/
theorem execAll_getenvdef_setenvdef (h : s.Ok) {vs vd : VoiceNo} {x y : Voice} (hvs : s.voice? vs = some x)
    (hvd : s.voice? vd = some y) :
    execAll [.getenvdef vs, .setenvdef vd] s =
      some (respond 0 ((respond 0 { s with defs := s.defs.takeEnvDef x }).setVoice vd
        (y.loadEnvDef (s.defs.takeEnvDef x)))) := by
  have hset := exec_setenvdef (s := respond 0 { s with defs := s.defs.takeEnvDef x }) hvd
    ((h.voice_ok hvs).takeEnvDef_valid s.defs)
  rw [execAll_cons (exec_getenvdef hvs), execAll_cons hset]
  rfl

end

/-- Settles O55. -/
theorem envelopeDefinitionMoves : Obligations.EnvelopeDefinitionMoves :=
  fun _ _ _ hv => ⟨exec_getenvdef hv, fun hatk hdec hrel hcurve =>
    exec_setenvdef hv (firstInvalid_envDefWords_eq_ok hatk hdec hrel hcurve)⟩

/-- Settles O56: what the pair assigns is the source's envelope definition, and to the source itself nothing new. -/
theorem envelopeDefinitionRoundTrip : Obligations.EnvelopeDefinitionRoundTrip := by
  refine fun s hok => ⟨fun v hlt => ?_, fun vs vd x hvs hlt => ?_⟩
  · obtain ⟨x, hv⟩ := State.exists_voice hlt
    refine ⟨_, execAll_getenvdef_setenvdef hok hv hv, ?_, rfl⟩
    have hsame : (s.setVoice v (x.loadEnvDef (s.defs.takeEnvDef x))).voices = s.voices := by
      rw [Voice.loadEnvDef_takeEnvDef_self, State.setVoice_same hv]
    exact hsame
  · obtain ⟨y, hvd⟩ := State.exists_voice hlt
    refine ⟨_, _, execAll_getenvdef_setenvdef hok hvs hvd, State.voice?_setVoice hlt _, rfl, rfl, rfl, rfl, rfl,
      rfl, rfl, Voice.loadEnvDef_takeEnvDef_curve s.defs x y⟩

end Sys2Proof.Machine
end

section
/-! Rejections (60_exceptions R252 to R254, R257, R258): a rejected word changes nothing but the capture and the port,
each command's own checks reject in their order, and the commands of the sample path pass theirs on an initialised
voice. -/

namespace Sys2Proof.Machine

/-! ## What a rejected word leaves (R253, R254) -/

/-- A command rejected by its own checks captures the word presented, which is the word its fields encode (R97, R99). -/
theorem execWord_eq_reject {w : Cmd} {s t : State} {r : Response} {rs : List Response} (h : execWord w s = .next t)
    (hresp : t.responses = r :: rs) (hr : r.status ≠ .ok) : t = reject r.status w s := by
  have hfirst {c : Status} (ht : t = reject c w s) : t = reject r.status w s := by
    have hhead := congrArg List.head? hresp
    rw [ht, reject_responses] at hhead
    obtain rfl : _ = r := Option.some.inj hhead
    exact ht
  cases hdec : decode s.nv w with
  | error c =>
    rw [execWord, hdec] at h
    exact hfirst (Host.Outcome.next.inj h).symm
  | ok i =>
    have hword : encode i = w := (acceptedWordIsItsEncoding _ _ _ hdec).1
    rw [execWord_of_decode hdec] at h
    rcases exec_shape i s with ⟨c, -, hc⟩ | ⟨d, e, hd, -⟩ | hstop
    · rw [hword] at hc
      exact hfirst (Host.Outcome.next.inj (h.symm.trans hc))
    · obtain rfl : t = respond d e := Host.Outcome.next.inj (h.symm.trans hd)
      obtain ⟨rfl, -⟩ := List.cons.inj hresp
      exact absurd rfl hr
    · cases h.symm.trans hstop

/-- Settles O15: the step executes the word on the state whose port has moved past it, and `reject` is written out in
full by `reject_eq`. -/
theorem rejectedCommandIsPrecise : Obligations.RejectedCommandIsPrecise := by
  intro s t w rest r rs hpending hstep hresp hr
  obtain ⟨hparams, -⟩ := step_cases hstep
  rw [step_of_input hparams hpending] at hstep
  exact (execWord_eq_reject hstep hresp hr).trans (reject_eq _ _ _)

/-! ## The sample path (R258) -/

theorem exists_ok_response_of_done {i : Instr} {s : State} {d : Word} {v : VoiceNo} {y : Voice}
    (h : exec i s = done d (s.setVoice v y)) :
    ∃ t d, exec i s = .next t ∧ t.responses = { status := .ok, data := d } :: s.responses :=
  ⟨_, d, h, rfl⟩

/-- Settles O18: the invariant gives an initialised voice its table, and in range it gives the filter coefficients. -/
theorem perSamplePathIsNeverRejected : Obligations.PerSamplePathIsNeverRejected := by
  intro s v x input hok hv hseg i hi
  simp only [List.mem_cons, List.not_mem_nil, or_false] at hi
  rcases hi with rfl | rfl | rfl
  · have hrdy : s.tblRdy = true := (hok.voice_ok hv).ready hseg
    cases hrange : s.inRange (fmul x.lvl s.frqti) with
    | true => exact exists_ok_response_of_done (hok.exec_sample_inRange hv hseg hrange input)
    | false => exact exists_ok_response_of_done (exec_sample_bypass hv hrdy hseg hrange input)
  · exact exists_ok_response_of_done (exec_egen hv hseg)
  · exact exists_ok_response_of_done (exec_bqsamp hv input)

/-! ## Legal rates and lengths (R121, R122) -/

theorem legalRate_iff {x : F32} : legalRate x = true ↔ fIsFinite x = true ∧ fgt x 0 = true :=
  Bool.and_eq_true_iff

/-- The lengths legal under a limit of `2 ^ m` are the powers of two from `4` to it. -/
theorem legalLength_two_pow_iff {m : Nat} {n : Int} :
    legalLength (2 ^ m) n = true ↔ ∃ k, 2 ≤ k ∧ k ≤ m ∧ n = 2 ^ k := by
  constructor
  · intro h
    obtain ⟨h4, hle, k, hk⟩ := legalLength_iff.1 h
    have hn : n = (2 ^ k : Nat) := by omega
    have hk2 : 2 ^ 2 ≤ 2 ^ k := by omega
    have hkm : 2 ^ k ≤ 2 ^ m := by omega
    exact ⟨k, (Nat.pow_le_pow_iff_right (by decide)).1 hk2, (Nat.pow_le_pow_iff_right (by decide)).1 hkm,
      by rw [hn, Int.natCast_pow]; rfl⟩
  · rintro ⟨k, hk2, hkm, rfl⟩
    have hlegal := legalLength_two_pow hk2 hkm
    rwa [Int.natCast_pow] at hlegal

/-! ## The checks of the table and global commands (R121 to R123) -/

section
variable {s : State}

theorem execSetsr_locked (hup : s.tblRdy = true) (rate : F32) :
    execSetsr rate s = rejected .tblLocked (.setsr rate) s :=
  if_pos hup

theorem execSetsr_badRate (hdown : s.tblRdy = false) {rate : F32} (hrate : ¬legalRate rate = true) :
    execSetsr rate s = rejected .cfgSrate (.setsr rate) s :=
  (if_neg (by simp [hdown])).trans (if_neg hrate)

theorem execTinit_locked (hup : s.tblRdy = true) (len : Word) :
    execTinit len s = rejected .tblLocked (.tinit len) s :=
  if_pos hup

theorem execTinit_badLength (hdown : s.tblRdy = false) {len : Word} (hlen : ¬legalLength s.lmax (sext32 len) = true) :
    execTinit len s = rejected .cfgTableLen (.tinit len) s :=
  (if_neg (by simp [hdown])).trans (if_pos (by simpa using hlen))

theorem execTinit_badRate (hdown : s.tblRdy = false) {len : Word} (hlen : legalLength s.lmax (sext32 len) = true)
    (hrate : ¬legalRate s.srate = true) : execTinit len s = rejected .cfgSrate (.tinit len) s :=
  (if_neg (by simp [hdown])).trans ((if_neg (by simp [hlen])).trans (if_pos (by simpa using hrate)))

theorem execTlook_notReady (hdown : s.tblRdy = false) (index : Word) :
    execTlook index s = rejected .tblNotReady (.tlook index) s :=
  if_pos (by simp [hdown])

theorem State.wt_eq_none_of_le {i : Nat} (h : sext32 s.tlen ≤ i) : s.wt i = none :=
  Option.eq_none_iff_forall_ne_some.2 fun _ he =>
    have ⟨_, hlt, _⟩ := State.wt_eq_some.1 he
    absurd hlt (Int.not_lt.2 h)

/-- A negative index fails the check of its sign, and one past the table finds no entry. -/
theorem execTlook_badIndex (hup : s.tblRdy = true) {index : Word}
    (h : sext32 index < 0 ∨ sext32 s.tlen ≤ sext32 index) :
    execTlook index s = rejected .tblIndex (.tlook index) s := by
  refine (if_neg (by simp [hup])).trans ?_
  by_cases hneg : sext32 index < 0
  · exact if_pos hneg
  · have hnat : sext32 index = zext32 index := toInt_eq_toNat_of_nonneg (Int.not_lt.1 hneg)
    have hle : sext32 s.tlen ≤ zext32 index := hnat ▸ h.resolve_left hneg
    rw [if_neg hneg, State.wt_eq_none_of_le hle]

end

/-! ## The checks of the definition words (R192, R211, R233) -/

theorem validDefWord_rate_neg {k : DefWord} (hk : k ∈ [DefWord.atkRt, .decRt, .relRt]) {w : Word}
    (h : sext32 w < 0) : validDefWord k w = .cfgRate := by
  simp only [List.mem_cons, List.not_mem_nil, or_false] at hk
  rcases hk with rfl | rfl | rfl <;> exact if_pos h

theorem validDefWord_curve_bad {w : Word} (h : 1 < w.toNat) : validDefWord .curve w = .badValue :=
  if_pos h

theorem validDefWord_ftype_bad {w : Word} (h : w ≠ 0) : validDefWord .ftype w = .badValue :=
  if_pos fun h0 => h (BitVec.eq_of_toNat_eq h0)

/-- A register that R211 checks has one cause for which its words are rejected. -/
theorem validDefWord_rate_cases {k : DefWord} (hk : k ∈ [DefWord.atkRt, .decRt, .relRt]) (w : Word) :
    validDefWord k w = .cfgRate ∨ validDefWord k w = .ok :=
  if h : sext32 w < 0 then .inl (validDefWord_rate_neg hk h)
  else .inr ((validDefWord_rate hk).2 (Int.not_lt.1 h))

theorem validDefWord_curve_cases (w : Word) :
    validDefWord .curve w = .badValue ∨ validDefWord .curve w = .ok :=
  if h : 1 < w.toNat then .inl (validDefWord_curve_bad h) else .inr (if_neg h)

theorem validDefWord_ftype_cases (w : Word) :
    validDefWord .ftype w = .badValue ∨ validDefWord .ftype w = .ok :=
  if h : w = 0 then .inr (by subst h; rfl) else .inl (validDefWord_ftype_bad h)

theorem firstInvalid_append (d : DefRecord) (ks ls : List DefWord) :
    firstInvalid d (ks ++ ls) = if firstInvalid d ks = .ok then firstInvalid d ls else firstInvalid d ks := by
  induction ks with
  | nil => rfl
  | cons k ks ih => by_cases h : validDefWord k (d.get k) = .ok <;> simp [firstInvalid, h, ih]

/-- Where one cause alone is possible and some word is not legal, that cause is found. -/
theorem firstInvalid_eq_of_only {d : DefRecord} {ks : List DefWord} {c : Status}
    (honly : ∀ k ∈ ks, validDefWord k (d.get k) = c ∨ validDefWord k (d.get k) = .ok)
    (hbad : ∃ k ∈ ks, validDefWord k (d.get k) = c) (hc : c ≠ .ok) : firstInvalid d ks = c := by
  induction ks with
  | nil => simp at hbad
  | cons k ks ih =>
    rcases honly k List.mem_cons_self with hk | hk
    · rw [firstInvalid, if_neg (hk ▸ hc), hk]
    · rw [firstInvalid, if_pos hk]
      refine ih (fun j hj => honly j (List.mem_cons_of_mem _ hj)) ?_
      obtain ⟨j, hj, hjc⟩ := hbad
      rcases List.mem_cons.1 hj with rfl | hj
      · exact absurd (hjc.symm.trans hk) hc
      · exact ⟨j, hj, hjc⟩

/-- The words `FINIT` and `SETENVDEF` check first, of which only the rates can be illegal. -/
def rateDefWords : List DefWord :=
  [.startLvl, .atkRt, .atkLvl, .decRt, .susLvl, .relRt, .relLvl]

theorem envDefWords_eq : envDefWords = rateDefWords ++ [.curve] := rfl

theorem allDefWords_eq : allDefWords = rateDefWords ++ [.curve, .gain, .ftype] := rfl

/-- A rate of the record is negative, which R211 forbids. -/
def DefRecord.BadRate (d : DefRecord) : Prop :=
  d.atkRt.toInt < 0 ∨ d.decRt.toInt < 0 ∨ d.relRt.toInt < 0

section
variable {d : DefRecord}

theorem firstInvalid_rateDefWords_of_badRate (h : d.BadRate) : firstInvalid d rateDefWords = .cfgRate := by
  refine firstInvalid_eq_of_only (fun k hk => ?only) ?bad (by decide)
  case only =>
    cases k with
    | atkRt | decRt | relRt => exact validDefWord_rate_cases (by decide) _
    | startLvl | atkLvl | susLvl | relLvl => exact .inr rfl
    | curve | gain | ftype => exact absurd hk (by decide)
  case bad =>
    rcases h with h | h | h
    · exact ⟨.atkRt, by decide, validDefWord_rate_neg (by decide) h⟩
    · exact ⟨.decRt, by decide, validDefWord_rate_neg (by decide) h⟩
    · exact ⟨.relRt, by decide, validDefWord_rate_neg (by decide) h⟩

theorem firstInvalid_rateDefWords_of_not_badRate (h : ¬d.BadRate) : firstInvalid d rateDefWords = .ok := by
  simp only [DefRecord.BadRate, not_or, Int.not_lt] at h
  obtain ⟨hatk, hdec, hrel⟩ := h
  refine firstInvalid_eq_ok.2 fun k hk => ?_
  cases k with
  | atkRt => exact (validDefWord_rate (by decide)).2 hatk
  | decRt => exact (validDefWord_rate (by decide)).2 hdec
  | relRt => exact (validDefWord_rate (by decide)).2 hrel
  | startLvl | atkLvl | susLvl | relLvl => rfl
  | curve | gain | ftype => exact absurd hk (by decide)

/-- A bad rate is found first, whatever words are checked after the rates. -/
theorem firstInvalid_of_badRate (h : d.BadRate) (ks : List DefWord) :
    firstInvalid d (rateDefWords ++ ks) = .cfgRate := by
  rw [firstInvalid_append, firstInvalid_rateDefWords_of_badRate h]
  rfl

theorem firstInvalid_of_not_badRate (h : ¬d.BadRate) (ks : List DefWord) :
    firstInvalid d (rateDefWords ++ ks) = firstInvalid d ks := by
  rw [firstInvalid_append, firstInvalid_rateDefWords_of_not_badRate h, if_pos rfl]

theorem firstInvalid_envDefWords_badCurve (h : ¬d.BadRate) (hcurve : 1 < d.curve.toNat) :
    firstInvalid d envDefWords = .badValue := by
  rw [envDefWords_eq, firstInvalid_of_not_badRate h]
  exact firstInvalid_eq_of_only (fun k hk => .inl (List.mem_singleton.1 hk ▸ validDefWord_curve_bad hcurve))
    ⟨.curve, List.mem_singleton_self _, validDefWord_curve_bad hcurve⟩ (by decide)

theorem firstInvalid_allDefWords_badEnum (h : ¬d.BadRate) (henum : 1 < d.curve.toNat ∨ d.ftype ≠ 0) :
    firstInvalid d allDefWords = .badValue := by
  rw [allDefWords_eq, firstInvalid_of_not_badRate h]
  refine firstInvalid_eq_of_only (fun k hk => ?only) ?bad (by decide)
  case only =>
    simp only [List.mem_cons, List.not_mem_nil, or_false] at hk
    rcases hk with rfl | rfl | rfl
    · exact validDefWord_curve_cases _
    · exact .inr rfl
    · exact validDefWord_ftype_cases _
  case bad =>
    rcases henum with hcurve | hftype
    · exact ⟨.curve, by decide, validDefWord_curve_bad hcurve⟩
    · exact ⟨.ftype, by decide, validDefWord_ftype_bad hftype⟩

end

/-! ## The checks of the commands on a voice (R181, R192, R193, R212, R233; 41_envelope R150, R151) -/

section
variable {s : State} {v : VoiceNo} {x : Voice}

theorem exec_finit_notReady (hv : s.voice? v = some x) (hdown : s.tblRdy = false) :
    exec (.finit v) s = rejected .tblNotReady (.finit v) s :=
  (withVoice_some hv).trans (if_pos (by simp [hdown]))

theorem exec_finit_badDef {c : Status} (hv : s.voice? v = some x) (hup : s.tblRdy = true)
    (hdefs : firstInvalid s.defs allDefWords = c) (hc : c ≠ .ok) : exec (.finit v) s = rejected c (.finit v) s := by
  subst hdefs
  exact (withVoice_some hv).trans ((if_neg (by simp [hup])).trans (if_pos hc))

theorem exec_setenvdef_badDef {c : Status} (hv : s.voice? v = some x)
    (hdefs : firstInvalid s.defs envDefWords = c) (hc : c ≠ .ok) :
    exec (.setenvdef v) s = rejected c (.setenvdef v) s := by
  subst hdefs
  exact (withVoice_some hv).trans (if_neg hc)

theorem exec_egen_idle (hv : s.voice? v = some x) (hidle : x.seg = .idle) :
    exec (.egen v) s = rejected .notInit (.egen v) s :=
  (withVoice_some hv).trans (if_pos hidle)

theorem exec_release_idle (hv : s.voice? v = some x) (hidle : x.seg = .idle) :
    exec (.release v) s = rejected .notInit (.release v) s :=
  (withVoice_some hv).trans (if_pos hidle)

theorem exec_freset_idle (hv : s.voice? v = some x) (hidle : x.seg = .idle) (phase : Word) :
    exec (.freset v phase) s = rejected .notInit (.freset v phase) s :=
  (withVoice_some hv).trans (if_pos hidle)

/-- The ten definition setters reject a word with the cause R211 gives it. -/
theorem exec_setDefInstr_badWord {k : DefWord} {w : Word} {c : Status} (hv : s.voice? v = some x)
    (hw : validDefWord k w = c) (hc : c ≠ .ok) :
    exec (setDefInstr v w k) s = rejected c (setDefInstr v w k) s := by
  subst hw
  calc exec (setDefInstr v w k) s
      = setDefinition k (setDefInstr v w k) v w s := by cases k <;> rfl
    _ = rejected (validDefWord k w) (setDefInstr v w k) s := (withVoice_some hv).trans (if_neg hc)

end

/-- Settles O17: `reject_eq` writes each rejection out, and each clause is the lemma above about its check. -/
theorem ownChecksInOrder : Obligations.OwnChecksInOrder := by
  intro s rej goodRate goodLength d badDefRate
  have hrej : rej = fun c i => rejected c i s :=
    funext fun c => funext fun i => congrArg Host.Outcome.next (reject_eq c (encode i) s).symm
  have hlen {n : Word} : legalLength s.lmax (sext32 n) = true ↔ goodLength n := legalLength_two_pow_iff
  have hbadRate {r : F32} (h : ¬goodRate r) : ¬legalRate r = true := mt legalRate_iff.1 h
  clear_value rej
  subst hrej
  refine ⟨?setsrLocked, ?setsrRate, ?tinitLocked, ?tinitLength, ?tinitRate, ?tlookNotReady, ?tlookIndex,
    fun v x hv => ⟨?finitNotReady, ?finitRate, ?finitEnum, ?setenvdefRate, ?setenvdefCurve, ?sampleNotReady,
      ?sampleIdle, ?egenIdle, ?releaseIdle, ?fresetIdle, ?setatkrt, ?setdecrt, ?setrelrt, ?settype, ?setftype⟩⟩
  case setsrLocked => exact fun r hup => execSetsr_locked hup r
  case setsrRate => exact fun r hdown h => execSetsr_badRate hdown (hbadRate h)
  case tinitLocked => exact fun n hup => execTinit_locked hup n
  case tinitLength => exact fun n hdown h => execTinit_badLength hdown (mt hlen.1 h)
  case tinitRate => exact fun n hdown h hrate => execTinit_badRate hdown (hlen.2 h) (hbadRate hrate)
  case tlookNotReady => exact fun n hdown => execTlook_notReady hdown n
  case tlookIndex => exact fun n hup h => execTlook_badIndex hup h
  case finitNotReady => exact exec_finit_notReady hv
  case finitRate => exact fun hup h => exec_finit_badDef hv hup (firstInvalid_of_badRate h _) (by decide)
  case finitEnum =>
    exact fun hup h henum => exec_finit_badDef hv hup (firstInvalid_allDefWords_badEnum h henum) (by decide)
  case setenvdefRate => exact fun h => exec_setenvdef_badDef hv (firstInvalid_of_badRate h _) (by decide)
  case setenvdefCurve =>
    exact fun h hcurve => exec_setenvdef_badDef hv (firstInvalid_envDefWords_badCurve h hcurve) (by decide)
  case sampleNotReady => exact fun input hdown => exec_sample_notReady hv hdown input
  case sampleIdle => exact fun input hup hidle => exec_sample_idle hv hup hidle input
  case egenIdle => exact exec_egen_idle hv
  case releaseIdle => exact exec_release_idle hv
  case fresetIdle => exact fun ph hidle => exec_freset_idle hv hidle ph
  case setatkrt =>
    exact fun w h => exec_setDefInstr_badWord (k := .atkRt) hv (validDefWord_rate_neg (by decide) h) (by decide)
  case setdecrt =>
    exact fun w h => exec_setDefInstr_badWord (k := .decRt) hv (validDefWord_rate_neg (by decide) h) (by decide)
  case setrelrt =>
    exact fun w h => exec_setDefInstr_badWord (k := .relRt) hv (validDefWord_rate_neg (by decide) h) (by decide)
  case settype =>
    exact fun w h => exec_setDefInstr_badWord (k := .curve) hv (validDefWord_curve_bad h) (by decide)
  case setftype =>
    exact fun w h => exec_setDefInstr_badWord (k := .ftype) hv (validDefWord_ftype_bad h) (by decide)

end Sys2Proof.Machine
end

section
/-! Hardware reset as an input of the port (70_reset_and_hazards R280): the reset state behind whatever the host still
presents. -/

namespace Sys2Proof.Machine

theorem step_of_hardReset {s : State} {rest : List Input} (hp : s.legalParams = true)
    (hpending : s.pending = .hardReset :: rest) : step s = .next (hardwareReset { s with pending := rest }) :=
  step_of_input hp hpending

/-- Reset builds the state anew: of the old one it reads the parameters, `NV` and the port, and moving the port changes
neither of the first two. -/
theorem hardwareReset_with_pending (s : State) (rest : List Input) :
    hardwareReset { s with pending := rest } =
      { State.resetWith s.params s.nv with pending := rest, responses := s.responses } := rfl

/-- Settles O11: the step resets the state whose port has moved past the input, and the statement writes out the
registers of `State.resetWith`. -/
theorem hardwareResetRestoresEveryRegister : Obligations.HardwareResetRestoresEveryRegister := by
  intro s rest hp hpending
  calc step s = .next (hardwareReset { s with pending := rest }) := step_of_hardReset hp hpending
    _ = .next { State.resetWith s.params s.nv with pending := rest, responses := s.responses } := by
      rw [hardwareReset_with_pending]
    _ = _ := by rw [State.resetWith, DefRecord.reset, Voice.reset, Taps.zero]

end Sys2Proof.Machine
end

section
/-! The word placed by `withFetchWord` (log 1), and the refusal of parameters outside their constraints
(93_implementation_defined U28). -/

namespace Sys2Proof.Machine

/-! ## The placed word -/

theorem State.withFetchWord_nv (s : State) (nbits w : Nat) : (s.withFetchWord nbits w).nv = s.nv := rfl

theorem State.withFetchWord_params (s : State) (nbits w : Nat) : (s.withFetchWord nbits w).params = s.params := rfl

/-- The 64 bits of a command word place that word before what the port already holds. -/
theorem State.withFetchWord_pending (s : State) (w : Cmd) :
    (s.withFetchWord 64 w.toNat).pending = .command w :: s.pending := by
  rw [State.withFetchWord, cmdOfBits_toNat]

/-- Taking the placed input gives back the state it was placed on. -/
theorem State.withFetchWord_taken (s : State) (nbits w : Nat) :
    { s.withFetchWord nbits w with pending := s.pending } = s := rfl

/-- Settles O8: the placed word comes first in the port, decodes back to its command, and leaves the old state behind
when it is taken. -/
theorem placedWordIsExecuted : Obligations.PlacedWordIsExecuted := by
  intro s i hp hwf
  have hp' : (s.withFetchWord 64 (encode i).toNat).legalParams = true :=
    State.legalParams_of_eq hp (s.withFetchWord_params _ _) (s.withFetchWord_nv _ _)
  have hdecode : decode (s.withFetchWord 64 (encode i).toNat).nv (encode i) = .ok i := by
    rw [State.withFetchWord_nv]
    exact encodedCommandDecodesBack s.nv i hwf
  calc step (s.withFetchWord 64 (encode i).toNat)
      = exec i { s.withFetchWord 64 (encode i).toNat with pending := s.pending } :=
        stepExecutesTheDecodedCommand _ _ _ i hp' (s.withFetchWord_pending (encode i)) hdecode
    _ = exec i s := by rw [State.withFetchWord_taken]

/-! ## The parameters -/

/-- The check of the parameters is the conjunction of R11, R12 and R14. -/
theorem State.legalParams_iff {s : State} :
    s.legalParams = true ↔
      1 ≤ s.voices.length ∧ s.voices.length ≤ 256 ∧ 2 ≤ s.params.log2Lmax ∧ s.params.log2Lmax ≤ 24 ∧
        fgt s.params.expk 0 = true := by
  simp only [State.legalParams, Bool.and_eq_true, decide_eq_true_eq, and_assoc]
  rw [State.nv, fZero]

theorem step_of_illegalParams {s : State} (hp : ¬s.legalParams = true) : step s = .refused .badParameters := by
  rw [step, if_neg hp]

/-- Settles O13. -/
theorem illegalParametersAreRefused : Obligations.IllegalParametersAreRefused :=
  fun _ h => step_of_illegalParams (mt State.legalParams_iff.1 h)

end Sys2Proof.Machine
end
